-- ==== Sys2Proof/Word.lean ====
section
/-! DEFINITION. The fixed widths of the block (spec/00_scope.md rule R4): bytes, register pairs, command words and
response words. Nothing here computes. -/

namespace Sys2Proof

/-- A byte (spec/00_scope.md section 6). -/
abbrev Byte := BitVec 8

/-- A RawRegisterPair carried in one 16-bit value: `byte0` is bits 15:8, `byte1` bits 7:0 (rules R8, R24). -/
abbrev Pair := BitVec 16

/-- A command word: `op` is bits 39:32, `arg` bits 31:0 (rule R40, `CMDW`). -/
abbrev CmdWord := BitVec 40

/-- A response word: status, present, err, data from the high bits down (rule R41). -/
abbrev RspWord := BitVec 43

/-- A TemperatureValue count: 16-bit two's complement, one unit is 1/16 degree Celsius (rule R5, `CNTW`). -/
abbrev Count := BitVec 16

end Sys2Proof
end

