-- ==== Sys2Proof/Config.lean ====
section
/-! DEFINITION. What an instance of the block fixes (the device address), the names of the sensor's registers and of the
configuration fields, what the outside may do at one transport transaction, and the free values of the model. -/

namespace Sys2Proof

/-- The four valid device addresses (rule R21). The type has no fifth value: an instance with another address is
refused by construction (decision D22, U2). -/
inductive DevAddr where
  | x48 | x49 | x4A | x4B
  deriving DecidableEq, Repr, Inhabited

/-- The sensor's four registers (rule R20). The block never presents another register address. -/
inductive SensorReg where
  | temperature | configuration | tLow | tHigh
  deriving DecidableEq, Repr, Inhabited

/-- The eight fields of the Configuration register in the order of their numbers `f = 0..7` (rules R46, R80). -/
inductive CfgField where
  | sd | tm | pol | fq | os | em | al | cr
  deriving DecidableEq, Repr

/-- The sensor itself, or another master of it, replaces the contents of one register (rules R29, R30, R31, R174). -/
structure Change where
  reg  : SensorReg
  pair : Pair
  deriving DecidableEq, Repr, Inhabited

/-- How far a transport request had got when nothing more is heard of it (rule R171, U8): presented and never taken, or
taken by the transport. `landed` says whether a taken write has reached the register (U3). -/
inductive Cut where
  | withdrawn
  | taken (landed : Bool)
  deriving DecidableEq, Repr, Inhabited

/-- What becomes of one transport transaction. -/
inductive Reply where
  /-- Success: a read delivers what the register holds now, a write has replaced it (rules R22, R31). -/
  | ok
  /-- Failure with an uninterpreted code (rule R152, U7); `landed` says whether a failed write reached the register
  all the same (rule R30, U3). -/
  | fail (err : Byte) (landed : Bool)
  /-- The transport never answers (U8): the block waits for ever. -/
  | silent (c : Cut)
  /-- `rst` is sampled high while the transaction is under way (rule R171). -/
  | reset (c : Cut)
  deriving DecidableEq, Repr, Inhabited

/-- What the outside does at one transport transaction of the block: the changes made to the sensor's registers since
the transaction before, in order, and then the reply (log entries 9 and 21). -/
structure Turn where
  before : List Change
  reply  : Reply
  deriving DecidableEq, Repr, Inhabited

/-- Values for the five hold registers that reset leaves unspecified (rule R170, U10). -/
structure HoldJunk where
  op   : BitVec 8
  arg  : BitVec 32
  cfg  : Pair
  data : Pair
  rsp  : RspWord
  deriving DecidableEq, Repr, Inhabited

/-- Values for the request payload ports where rule R19 gives them none. The register stays one of the four (rule R19). -/
structure FreeReq where
  write : Bool
  reg   : SensorReg
  wdata : Pair
  deriving DecidableEq, Repr, Inhabited

/-- Free value: the request payload ports while no request is presented, and the write data while a read is (rule R19; log
entry 10). -/
opaque Config.freeReq : Nat → FreeReq

/-- Free value: what the outside does at a transaction that `State.turns` does not list (rules R22, R29, U4, U7). -/
opaque Config.freeTurn : Nat → Turn

/-- Free value: the byte of a sensor register that nothing has written or changed yet (rule R172, U4; log entry 3). -/
opaque Config.unwrittenByte : Nat → Byte

/-- Free value: the unspecified hold registers after a reset during a run (rule R170, U10). -/
opaque Config.holdJunk : Nat → HoldJunk

end Sys2Proof
end

