-- ==== Sys2Proof/Syntax.lean ====
section
/-! DEFINITION. The commands of the set RC40: one constructor per row of spec/opcode_table.json, with the operands of the
argument formats of rule R42. Operands the spec treats as integers (`c`, `n`) are integers; operands it masks and shifts
are bit vectors. -/

namespace Sys2Proof

/-- The 40 commands (rule R43). -/
inductive Instr where
  /-- DEC.N (rule R62): decode a temperature pair in normal mode. -/
  | decN (byte0 byte1 : Byte)
  /-- DEC.E (rule R63): decode a temperature pair in extended mode. -/
  | decE (byte0 byte1 : Byte)
  /-- ENC.N (rule R74): encode a CelsiusIn as a normal-mode pair. -/
  | encN (c : Int)
  /-- ENC.E (rule R75): encode a CelsiusIn as an extended-mode pair. -/
  | encE (c : Int)
  /-- C2F (rule R67): convert an optional count to Fahrenheit. -/
  | c2f (pin : Bool) (n : Int)
  /-- FGET.SD (rule R83): get field SD of an image. -/
  | fgetSd (img : Pair)
  /-- FGET.TM (rule R84): get field TM of an image. -/
  | fgetTm (img : Pair)
  /-- FGET.POL (rule R85): get field POL of an image. -/
  | fgetPol (img : Pair)
  /-- FGET.FQ (rule R86): get field FQ of an image. -/
  | fgetFq (img : Pair)
  /-- FGET.OS (rule R87): get field OS of an image. -/
  | fgetOs (img : Pair)
  /-- FGET.EM (rule R88): get field EM of an image. -/
  | fgetEm (img : Pair)
  /-- FGET.AL (rule R89): get field AL of an image. -/
  | fgetAl (img : Pair)
  /-- FGET.CR (rule R90): get field CR of an image. -/
  | fgetCr (img : Pair)
  /-- FSET.SD (rule R91): set field SD of an image. -/
  | fsetSd (img : Pair) (v : BitVec 16)
  /-- FSET.TM (rule R92): set field TM of an image. -/
  | fsetTm (img : Pair) (v : BitVec 16)
  /-- FSET.POL (rule R93): set field POL of an image. -/
  | fsetPol (img : Pair) (v : BitVec 16)
  /-- FSET.FQ (rule R94): set field FQ of an image. -/
  | fsetFq (img : Pair) (v : BitVec 16)
  /-- FTRIG.OS (rule R97): set the One-shot bit of an image. -/
  | ftrigOs (img : Pair)
  /-- FSET.EM (rule R95): set field EM of an image. -/
  | fsetEm (img : Pair) (v : BitVec 16)
  /-- FSET.CR (rule R96): set field CR of an image. -/
  | fsetCr (img : Pair) (v : BitVec 16)
  /-- RD.TEMP (rule R112): read and decode the Temperature register. -/
  | rdTemp
  /-- RD.TLOW (rule R113): read and decode T_LOW. -/
  | rdTlow
  /-- RD.THIGH (rule R114): read and decode T_HIGH. -/
  | rdThigh
  /-- WR.TLOW (rule R115): encode and write T_LOW. -/
  | wrTlow (c : Int)
  /-- WR.THIGH (rule R116): encode and write T_HIGH. -/
  | wrThigh (c : Int)
  /-- CGET.SD (rule R117): get field SD from the sensor. -/
  | cgetSd
  /-- CGET.TM (rule R118): get field TM from the sensor. -/
  | cgetTm
  /-- CGET.POL (rule R119): get field POL from the sensor. -/
  | cgetPol
  /-- CGET.FQ (rule R120): get field FQ from the sensor. -/
  | cgetFq
  /-- CGET.OS (rule R121): get field OS from the sensor. -/
  | cgetOs
  /-- CGET.EM (rule R122): get field EM from the sensor. -/
  | cgetEm
  /-- CGET.AL (rule R123): get field AL from the sensor. -/
  | cgetAl
  /-- CGET.CR (rule R124): get field CR from the sensor. -/
  | cgetCr
  /-- CSET.SD (rule R125): set field SD in the sensor. -/
  | csetSd (v : BitVec 32)
  /-- CSET.TM (rule R126): set field TM in the sensor. -/
  | csetTm (v : BitVec 32)
  /-- CSET.POL (rule R127): set field POL in the sensor. -/
  | csetPol (v : BitVec 32)
  /-- CSET.FQ (rule R128): set field FQ in the sensor. -/
  | csetFq (v : BitVec 32)
  /-- OS.TRIG (rule R131): trigger a one-shot conversion. -/
  | osTrig
  /-- CSET.EM (rule R129): set field EM in the sensor. -/
  | csetEm (v : BitVec 32)
  /-- CSET.CR (rule R130): set field CR in the sensor. -/
  | csetCr (v : BitVec 32)
  deriving DecidableEq, Repr

end Sys2Proof
end

