-- ==== Sys2Proof/WellFormed.lean ====
section
/-! DEFINITION. Which instruction terms the hardware can be handed: an integer operand lies in the range of its field
(rule R42). Every other operand is in range by its type, and no operand value makes a command illegal (rule R45). -/

namespace Sys2Proof

/-- `c` is a CelsiusIn: a signed 32-bit integer (rules R6, R42 format A-CEL). -/
def isCelsiusIn (c : Int) : Bool :=
  decide (-2147483648 ≤ c) && decide (c ≤ 2147483647)

/-- `n` is a count: a signed 16-bit integer (rules R5, R42 format A-CNT). -/
def isCount (n : Int) : Bool :=
  decide (-32768 ≤ n) && decide (n ≤ 32767)

/-- An instruction whose operands fit their fields. -/
def Instr.wellFormed : Instr → Bool
  | .decN _ _ => true
  | .decE _ _ => true
  | .encN c => isCelsiusIn c
  | .encE c => isCelsiusIn c
  | .c2f _ n => isCount n
  | .fgetSd _ => true
  | .fgetTm _ => true
  | .fgetPol _ => true
  | .fgetFq _ => true
  | .fgetOs _ => true
  | .fgetEm _ => true
  | .fgetAl _ => true
  | .fgetCr _ => true
  | .fsetSd _ _ => true
  | .fsetTm _ _ => true
  | .fsetPol _ _ => true
  | .fsetFq _ _ => true
  | .ftrigOs _ => true
  | .fsetEm _ _ => true
  | .fsetCr _ _ => true
  | .rdTemp => true
  | .rdTlow => true
  | .rdThigh => true
  | .wrTlow c => isCelsiusIn c
  | .wrThigh c => isCelsiusIn c
  | .cgetSd => true
  | .cgetTm => true
  | .cgetPol => true
  | .cgetFq => true
  | .cgetOs => true
  | .cgetEm => true
  | .cgetAl => true
  | .cgetCr => true
  | .csetSd _ => true
  | .csetTm _ => true
  | .csetPol _ => true
  | .csetFq _ => true
  | .osTrig => true
  | .csetEm _ => true
  | .csetCr _ => true

end Sys2Proof
end

