-- ==== Sys2Proof/Decode.lean ====
section
/-! DEFINITION. Decoding of 40-bit command words, total and decided by `op` alone (rules R40, R42 to R45, R49), and the
encoder, written from the same table. -/

namespace Sys2Proof

/-- Why a word is no command: its operation code is one of the 216 reserved ones (rule R44). -/
inductive Reject where
  | reservedOp (op : BitVec 8)
  deriving DecidableEq, Repr

/-- `op = cmd[39:32]` (rule R40). -/
def opOf (w : CmdWord) : BitVec 8 := w.extractLsb' 32 8

/-- `arg = cmd[31:0]` (rule R40). -/
def argOf (w : CmdWord) : BitVec 32 := w.extractLsb' 0 32

/-- Formats A-PAIR and A-IMG: `byte0 = arg[15:8]` (rule R42). -/
def argByte0 (arg : BitVec 32) : Byte := arg.extractLsb' 8 8

/-- Formats A-PAIR and A-IMG: `byte1 = arg[7:0]` (rule R42). -/
def argByte1 (arg : BitVec 32) : Byte := arg.extractLsb' 0 8

/-- Format A-CEL: `c = signed_32(arg[31:0])` (rule R42). -/
def argCelsius (arg : BitVec 32) : Int := arg.toInt

/-- Format A-CNT: `n = signed_16(arg[15:0])` (rule R42). -/
def argCount (arg : BitVec 32) : Int := (arg.extractLsb' 0 16).toInt

/-- Format A-CNT: `pin = arg[16]` (rule R42). -/
def argPresent (arg : BitVec 32) : Bool := arg.getLsbD 16

/-- Formats A-IMG and A-IMGV: `img = arg[15:0]` (rule R42). -/
def argImage (arg : BitVec 32) : Pair := arg.extractLsb' 0 16

/-- Format A-IMGV: `v = arg[31:16]` (rule R42). -/
def argImageValue (arg : BitVec 32) : BitVec 16 := arg.extractLsb' 16 16

/-- The operation-code map (rule R43); every other code is reserved (rule R44). Format A-VAL is all of `arg`, A-NONE none
of it. -/
def decodeOp (op : BitVec 8) (arg : BitVec 32) : Except Reject Instr :=
  match op with
  | 0x00#8 => .ok (.decN (argByte0 arg) (argByte1 arg))
  | 0x01#8 => .ok (.decE (argByte0 arg) (argByte1 arg))
  | 0x02#8 => .ok (.encN (argCelsius arg))
  | 0x03#8 => .ok (.encE (argCelsius arg))
  | 0x04#8 => .ok (.c2f (argPresent arg) (argCount arg))
  | 0x10#8 => .ok (.fgetSd (argImage arg))
  | 0x11#8 => .ok (.fgetTm (argImage arg))
  | 0x12#8 => .ok (.fgetPol (argImage arg))
  | 0x13#8 => .ok (.fgetFq (argImage arg))
  | 0x14#8 => .ok (.fgetOs (argImage arg))
  | 0x15#8 => .ok (.fgetEm (argImage arg))
  | 0x16#8 => .ok (.fgetAl (argImage arg))
  | 0x17#8 => .ok (.fgetCr (argImage arg))
  | 0x20#8 => .ok (.fsetSd (argImage arg) (argImageValue arg))
  | 0x21#8 => .ok (.fsetTm (argImage arg) (argImageValue arg))
  | 0x22#8 => .ok (.fsetPol (argImage arg) (argImageValue arg))
  | 0x23#8 => .ok (.fsetFq (argImage arg) (argImageValue arg))
  | 0x24#8 => .ok (.ftrigOs (argImage arg))
  | 0x25#8 => .ok (.fsetEm (argImage arg) (argImageValue arg))
  | 0x27#8 => .ok (.fsetCr (argImage arg) (argImageValue arg))
  | 0x40#8 => .ok .rdTemp
  | 0x42#8 => .ok .rdTlow
  | 0x43#8 => .ok .rdThigh
  | 0x52#8 => .ok (.wrTlow (argCelsius arg))
  | 0x53#8 => .ok (.wrThigh (argCelsius arg))
  | 0x60#8 => .ok .cgetSd
  | 0x61#8 => .ok .cgetTm
  | 0x62#8 => .ok .cgetPol
  | 0x63#8 => .ok .cgetFq
  | 0x64#8 => .ok .cgetOs
  | 0x65#8 => .ok .cgetEm
  | 0x66#8 => .ok .cgetAl
  | 0x67#8 => .ok .cgetCr
  | 0x70#8 => .ok (.csetSd arg)
  | 0x71#8 => .ok (.csetTm arg)
  | 0x72#8 => .ok (.csetPol arg)
  | 0x73#8 => .ok (.csetFq arg)
  | 0x74#8 => .ok .osTrig
  | 0x75#8 => .ok (.csetEm arg)
  | 0x77#8 => .ok (.csetCr arg)
  | _ => .error (.reservedOp op)

/-- Decode a command word (rules R40, R45). -/
def decode (w : CmdWord) : Except Reject Instr := decodeOp (opOf w) (argOf w)

/-- The host's reading of a table word: a row has 40 bits, bit 0 the least significant, one word and no byte order
(rules R40, R49); bits at and above `nbits` are 0. -/
def decodeTableWord (nbits w : Nat) : Option Instr :=
  (decode (BitVec.ofNat 40 (w % 2 ^ nbits))).toOption

/-! ### The encoder -/

/-- The operation code of a command (rule R43). -/
def Instr.opCode : Instr → BitVec 8
  | .decN _ _ => 0x00#8
  | .decE _ _ => 0x01#8
  | .encN _ => 0x02#8
  | .encE _ => 0x03#8
  | .c2f _ _ => 0x04#8
  | .fgetSd _ => 0x10#8
  | .fgetTm _ => 0x11#8
  | .fgetPol _ => 0x12#8
  | .fgetFq _ => 0x13#8
  | .fgetOs _ => 0x14#8
  | .fgetEm _ => 0x15#8
  | .fgetAl _ => 0x16#8
  | .fgetCr _ => 0x17#8
  | .fsetSd _ _ => 0x20#8
  | .fsetTm _ _ => 0x21#8
  | .fsetPol _ _ => 0x22#8
  | .fsetFq _ _ => 0x23#8
  | .ftrigOs _ => 0x24#8
  | .fsetEm _ _ => 0x25#8
  | .fsetCr _ _ => 0x27#8
  | .rdTemp => 0x40#8
  | .rdTlow => 0x42#8
  | .rdThigh => 0x43#8
  | .wrTlow _ => 0x52#8
  | .wrThigh _ => 0x53#8
  | .cgetSd => 0x60#8
  | .cgetTm => 0x61#8
  | .cgetPol => 0x62#8
  | .cgetFq => 0x63#8
  | .cgetOs => 0x64#8
  | .cgetEm => 0x65#8
  | .cgetAl => 0x66#8
  | .cgetCr => 0x67#8
  | .csetSd _ => 0x70#8
  | .csetTm _ => 0x71#8
  | .csetPol _ => 0x72#8
  | .csetFq _ => 0x73#8
  | .osTrig => 0x74#8
  | .csetEm _ => 0x75#8
  | .csetCr _ => 0x77#8

/-- Format A-PAIR in `arg`, 0 in the ignored bits (rules R42, R47). -/
def putPair (byte0 byte1 : Byte) : BitVec 32 := 0#16 ++ byte0 ++ byte1

/-- Format A-CEL in `arg` (rule R42). -/
def putCelsius (c : Int) : BitVec 32 := BitVec.ofInt 32 c

/-- Format A-CNT in `arg`, 0 in the ignored bits (rules R42, R47). -/
def putCount (pin : Bool) (n : Int) : BitVec 32 := 0#15 ++ BitVec.ofBool pin ++ BitVec.ofInt 16 n

/-- Format A-IMG in `arg`, 0 in the ignored bits (rules R42, R47). -/
def putImage (img : Pair) : BitVec 32 := 0#16 ++ img

/-- Format A-IMGV in `arg` (rule R42). -/
def putImageValue (img : Pair) (v : BitVec 16) : BitVec 32 := v ++ img

/-- The argument of a command (rule R42). -/
def Instr.argBits : Instr → BitVec 32
  | .decN byte0 byte1 => putPair byte0 byte1
  | .decE byte0 byte1 => putPair byte0 byte1
  | .encN c => putCelsius c
  | .encE c => putCelsius c
  | .c2f pin n => putCount pin n
  | .fgetSd img => putImage img
  | .fgetTm img => putImage img
  | .fgetPol img => putImage img
  | .fgetFq img => putImage img
  | .fgetOs img => putImage img
  | .fgetEm img => putImage img
  | .fgetAl img => putImage img
  | .fgetCr img => putImage img
  | .fsetSd img v => putImageValue img v
  | .fsetTm img v => putImageValue img v
  | .fsetPol img v => putImageValue img v
  | .fsetFq img v => putImageValue img v
  | .ftrigOs img => putImage img
  | .fsetEm img v => putImageValue img v
  | .fsetCr img v => putImageValue img v
  | .rdTemp => 0#32
  | .rdTlow => 0#32
  | .rdThigh => 0#32
  | .wrTlow c => putCelsius c
  | .wrThigh c => putCelsius c
  | .cgetSd => 0#32
  | .cgetTm => 0#32
  | .cgetPol => 0#32
  | .cgetFq => 0#32
  | .cgetOs => 0#32
  | .cgetEm => 0#32
  | .cgetAl => 0#32
  | .cgetCr => 0#32
  | .csetSd v => v
  | .csetTm v => v
  | .csetPol v => v
  | .csetFq v => v
  | .osTrig => 0#32
  | .csetEm v => v
  | .csetCr v => v

/-- The command word of an instruction (rule R40). -/
def encode (i : Instr) : CmdWord := i.opCode ++ i.argBits

end Sys2Proof
end

