-- ==== Sys2Proof/Machine/Codec.lean ====
section
/-! DEFINITION. The pure functions the rules share (rule R9): the temperature decoder (R60, R61), the Fahrenheit function
(R65), the threshold encoder (R70 to R73) and the configuration field table with its get and set (R80 to R82). They read
no state. -/

namespace Sys2Proof.Machine

/-! ### Pairs -/

/-- `byte0`, the most significant byte of a pair (rule R8). -/
def byte0 (p : Pair) : Byte := p.extractLsb' 8 8

/-- `byte1`, the least significant byte of a pair (rule R8). -/
def byte1 (p : Pair) : Byte := p.extractLsb' 0 8

/-- `byte0 ‖ byte1` (rule R8). -/
def pairOf (b0 b1 : Byte) : Pair := b0 ++ b1

/-! ### Decoder -/

/-- SENT (rule R60). -/
def isSentinel (p : Pair) : Bool := byte0 p == 0xFF#8 && byte1 p == 0xFF#8

/-- The 13-bit field of extended mode, sign-extended by OR-ing `0xE000` (rule R61). -/
def extendedPattern (p : Pair) : Count :=
  let field : BitVec 13 := ((byte0 p).setWidth 13 <<< 5) ||| ((byte1 p) >>> 3).setWidth 13
  if field > 0x0FFF#13 then field.setWidth 16 ||| 0xE000#16 else field.setWidth 16

/-- The 12-bit field of normal mode, sign-extended by OR-ing `0xF000` (rule R61). -/
def normalPattern (p : Pair) : Count :=
  let field : BitVec 12 := ((byte0 p).setWidth 12 <<< 4) ||| ((byte1 p) >>> 4).setWidth 12
  if field > 0x07FF#12 then field.setWidth 16 ||| 0xF000#16 else field.setWidth 16

/-- DECODE (rule R61): absent on the sentinel, else the 16-bit pattern of the count. -/
def decodeTemp (p : Pair) (em : Bool) : Option Count :=
  if isSentinel p then none else some (if em then extendedPattern p else normalPattern p)

/-- C2F (rule R65), in units of 1/80 degree Fahrenheit. -/
def c2fUnits (n : Int) : Int := 9 * n + 2560

/-! ### Encoder -/

/-- `trunc0(a, b)`: the integer quotient rounded toward zero (spec/00_scope.md section 6). -/
def trunc0 (a b : Int) : Int := if 0 ≤ a then a / b else -((-a) / b)

/-- `clamp(x, lo, hi)` (spec/00_scope.md section 6). -/
def clampInt (x lo hi : Int) : Int := if x < lo then lo else if hi < x then hi else x

/-- CLAMP (rule R70): -55.0 to +150.0 degrees inclusive, in both modes. -/
def clampCelsius (c : Int) : Int := clampInt c (-3604480) 9830400

/-- QUANT (rule R71): the number of 1/16 degree steps, truncated toward zero. -/
def quant (c : Int) : Int := trunc0 c 4096

/-- PACK (rule R72): bit slices of the 16-bit two's-complement pattern of `raw`. -/
def pack (raw : Int) (em : Bool) : Pair :=
  let r : BitVec 16 := BitVec.ofInt 16 raw
  if em then pairOf (r.extractLsb' 5 8) (r.extractLsb' 0 5 ++ 0#3)
  else pairOf (r.extractLsb' 4 8) (r.extractLsb' 0 4 ++ 0#4)

/-- ENCODE (rule R73): clamp, then quantise, then pack. -/
def encodeTemp (c : Int) (em : Bool) : Pair := pack (quant (clampCelsius c)) em

/-! ### Configuration fields -/

/-- One row of the field table (rule R80): which byte, the mask in it, and the shift. -/
structure FieldRow where
  inByte0 : Bool
  mask    : Byte
  shift   : Nat
  deriving DecidableEq, Repr

/-- The field table (rule R80). -/
def fieldRow : CfgField → FieldRow
  | .sd  => ⟨true,  0x01#8, 0⟩
  | .tm  => ⟨true,  0x02#8, 1⟩
  | .pol => ⟨true,  0x04#8, 2⟩
  | .fq  => ⟨true,  0x18#8, 3⟩
  | .os  => ⟨true,  0x80#8, 7⟩
  | .em  => ⟨false, 0x10#8, 4⟩
  | .al  => ⟨false, 0x20#8, 5⟩
  | .cr  => ⟨false, 0xC0#8, 6⟩

/-- `wmask_f = mask_f >> shift_f` (rules R80, R82). -/
def fieldWmask (f : CfgField) : Byte := (fieldRow f).mask >>> (fieldRow f).shift

/-- The byte of the image a field stands in (rules R81, R82). -/
def fieldByte (img : Pair) (f : CfgField) : Byte :=
  if (fieldRow f).inByte0 then byte0 img else byte1 img

/-- FIELD_GET (rule R81). -/
def fieldGet (img : Pair) (f : CfgField) : Byte :=
  (fieldByte img f &&& (fieldRow f).mask) >>> (fieldRow f).shift

/-- EM_OF (rule R81): bit 4 of `byte1`. -/
def emOf (img : Pair) : Bool := img.getLsbD 4

/-- The new byte of FIELD_SET: clear the mask bits, OR in the masked and shifted value (rule R82). -/
def fieldMerge (b : Byte) (f : CfgField) (v : BitVec 32) : Byte :=
  (b &&& ~~~(fieldRow f).mask) ||| ((v.setWidth 8 &&& fieldWmask f) <<< (fieldRow f).shift)

/-- FIELD_SET (rule R82): the value wraps to the field's width and the other byte is returned unchanged. -/
def fieldSet (img : Pair) (f : CfgField) (v : BitVec 32) : Pair :=
  let b := fieldMerge (fieldByte img f) f v
  if (fieldRow f).inByte0 then pairOf b (byte1 img) else pairOf (byte0 img) b

end Sys2Proof.Machine
end

