-- ==== Sys2Proof/Machine/Flags.lean ====
section
/-! DEFINITION. The flag-like values of the block: status, present and err, which exist only in the response word
(rules R12, R41, R150 to R154). -/

namespace Sys2Proof.Machine

/-- The response statuses (rule R150). There is no fourth: the code 3 is never produced (U2). -/
inductive Status where
  | ok | tfail | illegal
  deriving DecidableEq, Repr

/-- A response, field by field (rule R41). -/
structure Rsp where
  status  : Status
  present : Bool
  err     : Byte
  data    : BitVec 32
  deriving DecidableEq, Repr

/-- The two-bit status code (rules R41, R150). -/
def statusCode : Status → BitVec 2
  | .ok => 0#2
  | .tfail => 1#2
  | .illegal => 2#2

/-- The 43-bit response word `status ‖ present ‖ err ‖ data` (rule R41). -/
def rspWord (r : Rsp) : RspWord :=
  statusCode r.status ++ BitVec.ofBool r.present ++ r.err ++ r.data

/-- The status a two-bit code stands for; none for 3 (U2). -/
def statusOf (b : BitVec 2) : Option Status :=
  match b with
  | 0#2 => some .ok
  | 1#2 => some .tfail
  | 2#2 => some .illegal
  | _ => none

/-- The host's reading of a response word; none when it meets status 3 (rule R41, U2). -/
def readRsp (w : RspWord) : Option Rsp :=
  (statusOf (w.extractLsb' 41 2)).map fun st =>
    ⟨st, w.getLsbD 40, w.extractLsb' 32 8, w.extractLsb' 0 32⟩

/-- `respond(present, data)`: status OK, err 0 (rule R41). -/
def rspOk (present : Bool) (data : BitVec 32) : Rsp := ⟨.ok, present, 0#8, data⟩

/-- The TFAIL response: the transport's code unchanged, the register address, and 1 in bit 8 for a write (rule R152). -/
def rspTfail (e : Byte) (reg : BitVec 8) (w : Bool) : Rsp :=
  ⟨.tfail, false, e, 0#23 ++ BitVec.ofBool w ++ reg⟩

/-- The ILLEGAL response (rule R151). -/
def rspIllegal : Rsp := ⟨.illegal, false, 0#8, 0#32⟩

/-- What rules R41, R150, R152 and R153 say of every response word: one of the three statuses, present only with OK, err only
with TFAIL, data 0 when absent or ILLEGAL, and for TFAIL a register address up to 3 with the direction above it. -/
def rspLegal (w : RspWord) : Bool :=
  match readRsp w with
  | none => false
  | some ⟨.ok, present, err, data⟩ => err == 0#8 && (present || data == 0#32)
  | some ⟨.tfail, present, _, data⟩ =>
      !present && data.extractLsb' 9 23 == 0#23 && decide ((data.extractLsb' 0 8).toNat ≤ 3)
  | some ⟨.illegal, present, err, data⟩ => !present && err == 0#8 && data == 0#32

end Sys2Proof.Machine
end

