-- ==== Sys2Proof/Machine/Operands.lean ====
section
/-! DEFINITION. The result formats of rule R42: how a command's result becomes `present` and `data`. The argument formats are
cut in Sys2Proof/Decode.lean. -/

namespace Sys2Proof.Machine

/-- D-CNT: `sext_32(n)` of a present count, else absent with 0 (rule R42). -/
def dCnt : Option Count → Rsp
  | some n => rspOk true (n.signExtend 32)
  | none => rspOk false 0#32

/-- D-FAH: `sext_32(twos_20(C2F(n)))`, else absent with 0 (rules R42, R67). -/
def dFah (pin : Bool) (n : Int) : Rsp :=
  if pin then rspOk true ((BitVec.ofInt 20 (c2fUnits n)).signExtend 32) else rspOk false 0#32

/-- D-PAIR: `zext_32(byte0 ‖ byte1)` (rule R42). -/
def dPair (p : Pair) : Rsp := rspOk true (p.setWidth 32)

/-- D-IMG: `zext_32(img')`, laid out as D-PAIR (rule R42). -/
def dImg (img : Pair) : Rsp := rspOk true (img.setWidth 32)

/-- D-FLD: `zext_32(value)` of a field value (rule R42). -/
def dFld (v : Byte) : Rsp := rspOk true (v.setWidth 32)

/-- D-ZERO: present with data 0 (rules R42, D25). -/
def dZero : Rsp := rspOk true 0#32

end Sys2Proof.Machine
end

