-- ==== Sys2Proof/Machine/State.lean ====
section
/-! DEFINITION. The state of the machine: the eight hold registers of rule R13, the transfer in progress that rule R19 implies,
the parameter `DEV_ADDR`, the sensor's register space behind the transport, the transport's record of requests, what the
outside does next, and the host. -/

namespace Sys2Proof.Machine

/-- A transport request (rules R22, R23): two bytes are read from, or written to, one register. -/
inductive Req where
  | read (r : SensorReg)
  | write (r : SensorReg) (p : Pair)
  deriving DecidableEq, Repr

/-- A request as the transport received it, with the device address put on it (rules R19, R21). -/
structure Txn where
  dev : DevAddr
  req : Req
  deriving DecidableEq, Repr

/-- The sensor's register space: bytes by address, addresses rising, an unlisted byte not known yet (rules R20, R172). -/
abbrev Memory := List Host.Cell

/-- The machine's state: plain data. -/
structure State where
  /-- `H.busy` (rule R13): a command is in flight. -/
  busy       : Bool
  /-- `H.op` (rule R13). -/
  op         : BitVec 8
  /-- `H.arg` (rule R13). -/
  arg        : BitVec 32
  /-- `H.phase` (rule R13): completed transactions of the command. -/
  phase      : BitVec 2
  /-- `H.cfg` (rule R13): the answer to this command's read of the Configuration register. -/
  cfg        : Pair
  /-- `H.data` (rule R13): the answer to this command's read of a data register. -/
  data       : Pair
  /-- `H.rsp` (rule R13): the response word. -/
  rsp        : RspWord
  /-- `H.rsp_pending` (rule R13): the response waits to be taken. -/
  rspPending : Bool
  /-- A request has been taken and not yet answered (rule R19, `t_rsp_ready`; DEDUCED, log entry 11). -/
  reqTaken   : Bool
  /-- `DEV_ADDR` (rules R4, R21): a parameter, written by nothing (log entry 12). -/
  devAddr    : DevAddr
  /-- The sensor's registers, as they stood after the last transaction (rules R20, R29; log entries 3 and 5). -/
  mem        : Memory
  /-- The requests the transport has taken, oldest first (the model's record, log entry 18). -/
  bus        : List Txn
  /-- What the outside does at the coming transactions, next first (the model's, log entry 2). -/
  turns      : List Turn
  /-- How many free values have been drawn (the model's, log entries 2 and 7). -/
  freeNo     : Nat
  /-- The command words the host presents, next first (rule R11; log entry 4). -/
  cmds       : List CmdWord
  /-- The host's `rsp_ready` (rule R19). -/
  rspReady   : Bool
  /-- `rst` at the coming steps, next first, low when the list ends (rule R170). A reset inside a command stands in its turn. -/
  rst        : List Bool
  /-- The responses the host has taken, oldest first (the model's record, log entry 18). -/
  taken      : List Rsp
  deriving DecidableEq, Repr

/-- Why the machine stops. No command and no transport answer leads here (rule R154). -/
inductive Fault where
  /-- Raised by the host's taking of a response whose status code is 3 (U2: a host-side decoder that meets it must fault). Safe: the
  block never produces that code (rule R150), so it is met only in states no run reaches. -/
  | responseStatus3
  deriving DecidableEq, Repr

/-- Why an instruction has no meaning. -/
inductive Refusal where
  /-- Raised by no arm of exec: every command of the table has its meaning. Safe. -/
  | notModelled (mnemonic : String)
  deriving DecidableEq, Repr

/-- The machine right after reset (rules R17, R170, R172): idle, nothing pending, the sensor's registers not known. The five hold
registers whose value the spec leaves unspecified hold 0 (DESIGN CHOICE, log entry 1); the outside is quiet, and nothing is
presented yet (log entries 2 and 4). -/
def State.reset : State where
  busy := false
  op := 0#8
  arg := 0#32
  phase := 0#2
  cfg := 0#16
  data := 0#16
  rsp := 0#43
  rspPending := false
  reqTaken := false
  devAddr := .x48
  mem := []
  bus := []
  turns := []
  freeNo := 0
  cmds := []
  rspReady := true
  rst := []
  taken := []

end Sys2Proof.Machine
end

