-- ==== Sys2Proof/Machine/Ops.lean ====
section
/-! DEFINITION. The named operations over memory and the hold registers: the sensor's register space, one transport transaction
with everything that can become of it, the two ways to raise a failure, the response and its taking, acceptance and reset. -/

namespace Sys2Proof.Machine

/-! ### The sensor's register space (spec/20_memory.md) -/

/-- The 7-bit device address on the transport (rules R4, R21). -/
def devCode : DevAddr → BitVec 7
  | .x48 => 0x48#7
  | .x49 => 0x49#7
  | .x4A => 0x4A#7
  | .x4B => 0x4B#7

/-- The register address on the transport (rule R20). -/
def regAddr : SensorReg → BitVec 8
  | .temperature => 0x00#8
  | .configuration => 0x01#8
  | .tLow => 0x02#8
  | .tHigh => 0x03#8

/-- The memory key of `byte0` of a register; `byte1` has the next key (DESIGN CHOICE, log entry 5: the spec numbers registers, not
bytes, rule R25). -/
def cellKey (d : DevAddr) (r : SensorReg) : Nat :=
  (devCode d).toNat * 512 + (regAddr r).toNat * 2

/-- The listed byte at an address, none if nothing has written it. -/
def Memory.lookup : Memory → Nat → Option Byte
  | [], _ => none
  | (k, b) :: m, a => if k = a then some b else Memory.lookup m a

/-- Write one byte, keeping addresses rising. -/
def Memory.write : Memory → Nat → Byte → Memory
  | [], a, b => [(a, b)]
  | (k, x) :: m, a, b =>
    if a < k then (a, b) :: (k, x) :: m
    else if a = k then (a, b) :: m
    else (k, x) :: Memory.write m a b

/-- The canonical form: addresses strictly rising. No byte value equals what an unlisted address reads as, which is no value. -/
def Memory.wf : Memory → Bool
  | [] => true
  | [_] => true
  | (k, _) :: (k', b') :: m => decide (k < k') && Memory.wf ((k', b') :: m)

/-- One byte of the sensor: the listed one, else a free value (rule R172, U4). -/
def byteAt (m : Memory) (a : Nat) : Byte := (Memory.lookup m a).getD (Config.unwrittenByte a)

/-- What a register holds, most significant byte first (rule R24). -/
def readPair (m : Memory) (d : DevAddr) (r : SensorReg) : Pair :=
  pairOf (byteAt m (cellKey d r)) (byteAt m (cellKey d r + 1))

/-- Replace both bytes of a register (rules R23, R24, R28). -/
def writePair (m : Memory) (d : DevAddr) (r : SensorReg) (p : Pair) : Memory :=
  Memory.write (Memory.write m (cellKey d r) (byte0 p)) (cellKey d r + 1) (byte1 p)

/-- The sensor or other masters act on the sensor's registers (rules R29, R30). -/
def applyChanges (d : DevAddr) : List Change → Memory → Memory
  | [], m => m
  | c :: cs, m => applyChanges d cs (writePair m d c.reg c.pair)

/-- What a request leaves in the sensor when it takes effect (rule R23). -/
def storeReq (q : Req) (d : DevAddr) (m : Memory) : Memory :=
  match q with
  | .read _ => m
  | .write r p => writePair m d r p

/-! ### Acceptance, response, failure, reset -/

/-- Acceptance of a command word: `busy`, `op` and `arg` are written and `phase` is cleared (rule R13). -/
def acceptWord (w : CmdWord) (s : State) : State :=
  { s with busy := true, op := opOf w, arg := argOf w, phase := 0#2 }

/-- The command ends: the response word is written and becomes pending (rules R13, R41). -/
def respond (r : Rsp) (s : State) : State :=
  { s with rsp := rspWord r, rspPending := true }

/-- `raise TFAIL(e, reg, w)` (rules R152, R156): nothing is saved, masked or undone. -/
def raiseTfail (e : Byte) (r : SensorReg) (w : Bool) (s : State) : State :=
  respond (rspTfail e (regAddr r) w) s

/-- `raise ILLEGAL` (rules R44, R151). -/
def raiseIllegal (s : State) : State := respond rspIllegal s

/-- The block is idle again when the host has taken the response, whatever its status (rules R13, R156, R157). -/
def releaseRsp (s : State) : State :=
  { s with busy := false, rspPending := false }

/-- The reset state of the block (rules R17, R170, R171): the five unspecified hold registers get free values (U10, log
entry 7), a request in progress is forgotten, and the sensor is not touched (rule R172). -/
def blockReset (s : State) : State :=
  { s with
    busy := false, phase := 0#2, rspPending := false, reqTaken := false
    op := (Config.holdJunk s.freeNo).op
    arg := (Config.holdJunk s.freeNo).arg
    cfg := (Config.holdJunk s.freeNo).cfg
    data := (Config.holdJunk s.freeNo).data
    rsp := (Config.holdJunk s.freeNo).rsp
    freeNo := s.freeNo + 1 }

/-- `rst` at the `k`-th coming step (rule R170). -/
def rstHighAt (s : State) (k : Nat) : Bool := s.rst.getD k false

/-- A step goes by on the `rst` line. -/
def passStep (s : State) : State := { s with rst := s.rst.tail }

/-! ### One transport transaction -/

/-- What the outside does at the `k`-th coming transaction: as listed, else a free value (rules R22, R29). -/
def State.turnAt (s : State) (k : Nat) : Turn := (s.turns[k]?).getD (Config.freeTurn (s.freeNo + k))

/-- The next turn begins: it is used up and its changes are in the sensor. -/
def beginTurn (s : State) : State :=
  { s with
    turns := s.turns.tail
    freeNo := s.freeNo + 1
    mem := applyChanges s.devAddr (s.turnAt 0).before s.mem }

/-- The transport has taken a request (rules R19, R21). -/
def logReq (q : Req) (s : State) : State := { s with bus := s.bus ++ [⟨s.devAddr, q⟩] }

/-- The answer to a read is kept for the rest of the command: in `cfg` from the Configuration register, in `data` from
another (rule R13). -/
def latchAnswer (q : Req) (p : Pair) (s : State) : State :=
  match q with
  | .read .configuration => { s with cfg := p }
  | .read _ => { s with data := p }
  | .write _ _ => s

/-- The bytes of a successful read: what the register holds when the read is performed (rule R31). -/
def answerOf (q : Req) (s : State) : Pair :=
  match q with
  | .read r => readPair s.mem s.devAddr r
  | .write _ _ => 0#16

/-- A transaction that completes: the request is taken, has its effect, its answer is kept and `phase` counts it
(rules R13, R22; DEDUCED, log entry 6). -/
def completeReq (q : Req) (s : State) : State :=
  latchAnswer q (answerOf q s)
    { logReq q s with phase := s.phase + 1#2, mem := storeReq q s.devAddr s.mem }

/-- A transaction that fails: a write may have reached the register or not (rule R30, U3). -/
def failReq (q : Req) (landed : Bool) (s : State) : State :=
  { logReq q s with mem := if landed then storeReq q s.devAddr s.mem else s.mem }

/-- A request of which nothing more is heard (U8, rule R171): not taken, or taken and not answered (log entry 20). -/
def hangReq (q : Req) (c : Cut) (s : State) : State :=
  match c with
  | .withdrawn => s
  | .taken landed => { failReq q landed s with reqTaken := true }

/-- What the block learns of its transaction. -/
inductive Answer where
  | ok (p : Pair)
  | fail (e : Byte)
  | stopped
  deriving DecidableEq, Repr

/-- One transport transaction (rules R22, R23, R30, R110): the outside acts, then the request completes, fails, is never
answered, or is cut off by reset. -/
def transact (q : Req) (s : State) : Answer × State :=
  match (s.turnAt 0).reply with
  | .ok => (.ok (answerOf q (beginTurn s)), completeReq q (beginTurn s))
  | .fail e landed => (.fail e, failReq q landed (beginTurn s))
  | .silent c => (.stopped, hangReq q c (beginTurn s))
  | .reset c => (.stopped, blockReset (hangReq q c (beginTurn s)))

/-- `MemRead(reg, 2)` and the rest of the command; TFAIL if the read fails (rules R23, R110). -/
def memRead (r : SensorReg) (s : State) (rest : Pair → State → State) : State :=
  match transact (.read r) s with
  | (.ok p, s') => rest p s'
  | (.fail e, s') => raiseTfail e r false s'
  | (.stopped, s') => s'

/-- `MemWrite(reg, 2, p)` and the rest of the command; TFAIL if the write fails (rules R23, R110). -/
def memWrite (r : SensorReg) (p : Pair) (s : State) (rest : State → State) : State :=
  match transact (.write r p) s with
  | (.ok _, s') => rest s'
  | (.fail e, s') => raiseTfail e r true s'
  | (.stopped, s') => s'

/-! ### The shapes of the sequenced commands (spec/43_register_commands.md) -/

/-- RD: the mode fetch, then the data register, decoded in that mode (rules R111 to R114). -/
def readAndDecode (r : SensorReg) (s : State) : State :=
  memRead .configuration s fun cfg s =>
    memRead r s fun p s => respond (dCnt (decodeTemp p (emOf cfg))) s

/-- WR: the mode fetch, then the encoded value is written wholesale (rules R111, R115, R116). -/
def encodeAndWrite (r : SensorReg) (c : Int) (s : State) : State :=
  memRead .configuration s fun cfg s =>
    memWrite r (encodeTemp c (emOf cfg)) s fun s => respond dZero s

/-- CGET: one read, one field (rules R117 to R124). -/
def readField (f : CfgField) (s : State) : State :=
  memRead .configuration s fun cfg s => respond (dFld (fieldGet cfg f)) s

/-- CSET and OS.TRIG: read, change one field, write both bytes back (rules R125 to R132). -/
def modifyField (f : CfgField) (v : BitVec 32) (s : State) : State :=
  memRead .configuration s fun cfg s =>
    memWrite .configuration (fieldSet cfg f v) s fun s => respond dZero s

end Sys2Proof.Machine
end

