-- ==== Sys2Proof/Machine/ConfigImage.lean ====
section
/-! DEFINITION. The configuration bit-field family on an image: FGET, FSET, FTRIG.OS (spec/42_config_bitfield.md). Pure commands. -/

namespace Sys2Proof.Machine

/-- FGET.SD (rule R83): field SD of the image. -/
def execFgetSd (img : Pair) (s : State) : Host.Outcome State Fault Refusal :=
  .next (respond (dFld (fieldGet img .sd)) s)

/-- FGET.TM (rule R84): field TM of the image. -/
def execFgetTm (img : Pair) (s : State) : Host.Outcome State Fault Refusal :=
  .next (respond (dFld (fieldGet img .tm)) s)

/-- FGET.POL (rule R85): field POL of the image. -/
def execFgetPol (img : Pair) (s : State) : Host.Outcome State Fault Refusal :=
  .next (respond (dFld (fieldGet img .pol)) s)

/-- FGET.FQ (rule R86): field FQ of the image. -/
def execFgetFq (img : Pair) (s : State) : Host.Outcome State Fault Refusal :=
  .next (respond (dFld (fieldGet img .fq)) s)

/-- FGET.OS (rule R87): field OS of the image. -/
def execFgetOs (img : Pair) (s : State) : Host.Outcome State Fault Refusal :=
  .next (respond (dFld (fieldGet img .os)) s)

/-- FGET.EM (rule R88): field EM of the image. -/
def execFgetEm (img : Pair) (s : State) : Host.Outcome State Fault Refusal :=
  .next (respond (dFld (fieldGet img .em)) s)

/-- FGET.AL (rule R89): field AL of the image. -/
def execFgetAl (img : Pair) (s : State) : Host.Outcome State Fault Refusal :=
  .next (respond (dFld (fieldGet img .al)) s)

/-- FGET.CR (rule R90): field CR of the image. -/
def execFgetCr (img : Pair) (s : State) : Host.Outcome State Fault Refusal :=
  .next (respond (dFld (fieldGet img .cr)) s)

/-- FSET.SD (rule R91): the image with field SD replaced, the value masked to the field. -/
def execFsetSd (img : Pair) (v : BitVec 16) (s : State) : Host.Outcome State Fault Refusal :=
  .next (respond (dImg (fieldSet img .sd (v.setWidth 32))) s)

/-- FSET.TM (rule R92): the image with field TM replaced, the value masked to the field. -/
def execFsetTm (img : Pair) (v : BitVec 16) (s : State) : Host.Outcome State Fault Refusal :=
  .next (respond (dImg (fieldSet img .tm (v.setWidth 32))) s)

/-- FSET.POL (rule R93): the image with field POL replaced, the value masked to the field. -/
def execFsetPol (img : Pair) (v : BitVec 16) (s : State) : Host.Outcome State Fault Refusal :=
  .next (respond (dImg (fieldSet img .pol (v.setWidth 32))) s)

/-- FSET.FQ (rule R94): the image with field FQ replaced, the value masked to the field. -/
def execFsetFq (img : Pair) (v : BitVec 16) (s : State) : Host.Outcome State Fault Refusal :=
  .next (respond (dImg (fieldSet img .fq (v.setWidth 32))) s)

/-- FTRIG.OS (rule R97): the image with the One-shot bit set; no value operand. -/
def execFtrigOs (img : Pair) (s : State) : Host.Outcome State Fault Refusal :=
  .next (respond (dImg (fieldSet img .os 1#32)) s)

/-- FSET.EM (rule R95): the image with field EM replaced, the value masked to the field. -/
def execFsetEm (img : Pair) (v : BitVec 16) (s : State) : Host.Outcome State Fault Refusal :=
  .next (respond (dImg (fieldSet img .em (v.setWidth 32))) s)

/-- FSET.CR (rule R96): the image with field CR replaced, the value masked to the field. -/
def execFsetCr (img : Pair) (v : BitVec 16) (s : State) : Host.Outcome State Fault Refusal :=
  .next (respond (dImg (fieldSet img .cr (v.setWidth 32))) s)

end Sys2Proof.Machine
end

