-- ==== Sys2Proof/Machine/Registers.lean ====
section
/-! DEFINITION. The sequenced register commands: RD, WR, CGET, CSET, OS.TRIG (spec/43_register_commands.md). -/

namespace Sys2Proof.Machine

/-- RD.TEMP (rule R112): Temperature, decoded in the mode read in the same command. -/
def execRdTemp (s : State) : Host.Outcome State Fault Refusal :=
  .next (readAndDecode .temperature s)

/-- RD.TLOW (rule R113): T_LOW, decoded in the mode read in the same command. -/
def execRdTlow (s : State) : Host.Outcome State Fault Refusal :=
  .next (readAndDecode .tLow s)

/-- RD.THIGH (rule R114): T_HIGH, decoded in the mode read in the same command. -/
def execRdThigh (s : State) : Host.Outcome State Fault Refusal :=
  .next (readAndDecode .tHigh s)

/-- WR.TLOW (rule R115): T_LOW written wholesale in the mode read in the same command. -/
def execWrTlow (c : Int) (s : State) : Host.Outcome State Fault Refusal :=
  .next (encodeAndWrite .tLow c s)

/-- WR.THIGH (rule R116): T_HIGH written wholesale in the mode read in the same command. -/
def execWrThigh (c : Int) (s : State) : Host.Outcome State Fault Refusal :=
  .next (encodeAndWrite .tHigh c s)

/-- CGET.SD (rule R117): field SD of the sensor; nothing is written. -/
def execCgetSd (s : State) : Host.Outcome State Fault Refusal :=
  .next (readField .sd s)

/-- CGET.TM (rule R118): field TM of the sensor; nothing is written. -/
def execCgetTm (s : State) : Host.Outcome State Fault Refusal :=
  .next (readField .tm s)

/-- CGET.POL (rule R119): field POL of the sensor; nothing is written. -/
def execCgetPol (s : State) : Host.Outcome State Fault Refusal :=
  .next (readField .pol s)

/-- CGET.FQ (rule R120): field FQ of the sensor; nothing is written. -/
def execCgetFq (s : State) : Host.Outcome State Fault Refusal :=
  .next (readField .fq s)

/-- CGET.OS (rule R121): field OS of the sensor; nothing is written. -/
def execCgetOs (s : State) : Host.Outcome State Fault Refusal :=
  .next (readField .os s)

/-- CGET.EM (rule R122): field EM of the sensor; nothing is written. -/
def execCgetEm (s : State) : Host.Outcome State Fault Refusal :=
  .next (readField .em s)

/-- CGET.AL (rule R123): field AL of the sensor; nothing is written. -/
def execCgetAl (s : State) : Host.Outcome State Fault Refusal :=
  .next (readField .al s)

/-- CGET.CR (rule R124): field CR of the sensor; nothing is written. -/
def execCgetCr (s : State) : Host.Outcome State Fault Refusal :=
  .next (readField .cr s)

/-- CSET.SD (rule R125): field SD of the sensor replaced by read-modify-write. -/
def execCsetSd (v : BitVec 32) (s : State) : Host.Outcome State Fault Refusal :=
  .next (modifyField .sd v s)

/-- CSET.TM (rule R126): field TM of the sensor replaced by read-modify-write. -/
def execCsetTm (v : BitVec 32) (s : State) : Host.Outcome State Fault Refusal :=
  .next (modifyField .tm v s)

/-- CSET.POL (rule R127): field POL of the sensor replaced by read-modify-write. -/
def execCsetPol (v : BitVec 32) (s : State) : Host.Outcome State Fault Refusal :=
  .next (modifyField .pol v s)

/-- CSET.FQ (rule R128): field FQ of the sensor replaced by read-modify-write. -/
def execCsetFq (v : BitVec 32) (s : State) : Host.Outcome State Fault Refusal :=
  .next (modifyField .fq v s)

/-- OS.TRIG (rule R131): the One-shot bit is written 1; the result is the constant 0. -/
def execOsTrig (s : State) : Host.Outcome State Fault Refusal :=
  .next (modifyField .os 1#32 s)

/-- CSET.EM (rule R129): field EM of the sensor replaced by read-modify-write. -/
def execCsetEm (v : BitVec 32) (s : State) : Host.Outcome State Fault Refusal :=
  .next (modifyField .em v s)

/-- CSET.CR (rule R130): field CR of the sensor replaced by read-modify-write. -/
def execCsetCr (v : BitVec 32) (s : State) : Host.Outcome State Fault Refusal :=
  .next (modifyField .cr v s)

end Sys2Proof.Machine
end

