-- ==== Sys2Proof/Machine/Temperature.lean ====
section
/-! DEFINITION. The temperature decoder family: DEC.N, DEC.E, C2F (spec/40_temperature_decoder.md). Pure commands. -/

namespace Sys2Proof.Machine

/-- DEC.N (rule R62): the pair decoded in 12-bit mode, absent on the sentinel. -/
def execDecN (b0 b1 : Byte) (s : State) : Host.Outcome State Fault Refusal :=
  .next (respond (dCnt (decodeTemp (pairOf b0 b1) false)) s)

/-- DEC.E (rule R63): the pair decoded in 13-bit mode, absent on the sentinel. -/
def execDecE (b0 b1 : Byte) (s : State) : Host.Outcome State Fault Refusal :=
  .next (respond (dCnt (decodeTemp (pairOf b0 b1) true)) s)

/-- C2F (rule R67): the count in 1/80 degree Fahrenheit; absent stays absent. -/
def execC2f (pin : Bool) (n : Int) (s : State) : Host.Outcome State Fault Refusal :=
  .next (respond (dFah pin n) s)

end Sys2Proof.Machine
end

