-- ==== Sys2Proof/Machine/Threshold.lean ====
section
/-! DEFINITION. The temperature encoder family: ENC.N, ENC.E (spec/41_temperature_encoder.md). Pure commands. -/

namespace Sys2Proof.Machine

/-- ENC.N (rule R74): clamp, truncate toward zero, pack 12 bits. -/
def execEncN (c : Int) (s : State) : Host.Outcome State Fault Refusal :=
  .next (respond (dPair (encodeTemp c false)) s)

/-- ENC.E (rule R75): clamp, truncate toward zero, pack 13 bits. -/
def execEncE (c : Int) (s : State) : Host.Outcome State Fault Refusal :=
  .next (respond (dPair (encodeTemp c true)) s)

end Sys2Proof.Machine
end

