-- ==== Sys2Proof/Machine/Dispatch.lean ====
section
/-! DEFINITION. One arm per command: each calls its meaning. -/

namespace Sys2Proof.Machine

def exec (i : Instr) (s : State) : Host.Outcome State Fault Refusal :=
  match i with
  | .decN byte0 byte1 => Sys2Proof.Machine.execDecN byte0 byte1 s
  | .decE byte0 byte1 => Sys2Proof.Machine.execDecE byte0 byte1 s
  | .encN c => Sys2Proof.Machine.execEncN c s
  | .encE c => Sys2Proof.Machine.execEncE c s
  | .c2f pin n => Sys2Proof.Machine.execC2f pin n s
  | .fgetSd img => Sys2Proof.Machine.execFgetSd img s
  | .fgetTm img => Sys2Proof.Machine.execFgetTm img s
  | .fgetPol img => Sys2Proof.Machine.execFgetPol img s
  | .fgetFq img => Sys2Proof.Machine.execFgetFq img s
  | .fgetOs img => Sys2Proof.Machine.execFgetOs img s
  | .fgetEm img => Sys2Proof.Machine.execFgetEm img s
  | .fgetAl img => Sys2Proof.Machine.execFgetAl img s
  | .fgetCr img => Sys2Proof.Machine.execFgetCr img s
  | .fsetSd img v => Sys2Proof.Machine.execFsetSd img v s
  | .fsetTm img v => Sys2Proof.Machine.execFsetTm img v s
  | .fsetPol img v => Sys2Proof.Machine.execFsetPol img v s
  | .fsetFq img v => Sys2Proof.Machine.execFsetFq img v s
  | .ftrigOs img => Sys2Proof.Machine.execFtrigOs img s
  | .fsetEm img v => Sys2Proof.Machine.execFsetEm img v s
  | .fsetCr img v => Sys2Proof.Machine.execFsetCr img v s
  | .rdTemp => Sys2Proof.Machine.execRdTemp s
  | .rdTlow => Sys2Proof.Machine.execRdTlow s
  | .rdThigh => Sys2Proof.Machine.execRdThigh s
  | .wrTlow c => Sys2Proof.Machine.execWrTlow c s
  | .wrThigh c => Sys2Proof.Machine.execWrThigh c s
  | .cgetSd => Sys2Proof.Machine.execCgetSd s
  | .cgetTm => Sys2Proof.Machine.execCgetTm s
  | .cgetPol => Sys2Proof.Machine.execCgetPol s
  | .cgetFq => Sys2Proof.Machine.execCgetFq s
  | .cgetOs => Sys2Proof.Machine.execCgetOs s
  | .cgetEm => Sys2Proof.Machine.execCgetEm s
  | .cgetAl => Sys2Proof.Machine.execCgetAl s
  | .cgetCr => Sys2Proof.Machine.execCgetCr s
  | .csetSd v => Sys2Proof.Machine.execCsetSd v s
  | .csetTm v => Sys2Proof.Machine.execCsetTm v s
  | .csetPol v => Sys2Proof.Machine.execCsetPol v s
  | .csetFq v => Sys2Proof.Machine.execCsetFq v s
  | .osTrig => Sys2Proof.Machine.execOsTrig s
  | .csetEm v => Sys2Proof.Machine.execCsetEm v s
  | .csetCr v => Sys2Proof.Machine.execCsetCr v s

end Sys2Proof.Machine
end

