-- ==== Sys2Proof/Machine/Step.lean ====
section
/-! DEFINITION. One step of the machine: reset, the taking of a response, waiting, or the acceptance of the presented command and
its execution to the end. -/

namespace Sys2Proof.Machine

/-- The host takes the pending response and reads it (rules R13, R41); status 3 is a fault of the host's decoder (U2). -/
def takeRsp (s : State) : Host.Outcome State Fault Refusal :=
  match readRsp s.rsp with
  | some r => .next { releaseRsp s with taken := s.taken ++ [r] }
  | none => .fault .responseStatus3

/-- The presented command is accepted and runs: one of the 40, or ILLEGAL for a reserved code (rules R18, R44, R45, R155). -/
def runWord (w : CmdWord) (s : State) : Host.Outcome State Fault Refusal :=
  match decode w with
  | .ok i => exec i (acceptWord w s)
  | .error _ => .next (raiseIllegal (acceptWord w s))

/-- One step. With `rst` high the block resets (rule R170). A pending response is taken when the host is ready, else it
waits (rule R19, U8). A command whose transaction is not answered waits (U8, log entry 8). An idle block accepts the next command, or
idles (rules R11, R18). -/
def step (s : State) : Host.Outcome State Fault Refusal :=
  if rstHighAt s 0 then .next (blockReset (passStep s))
  else if s.rspPending then
    if s.rspReady then takeRsp (passStep s) else .next (passStep s)
  else if s.busy then .next (passStep s)
  else
    match s.cmds with
    | [] => .next (passStep s)
    | w :: ws => runWord w { passStep s with cmds := ws }

/-- The host presents the word `w` to an idle block, ahead of anything it presents later. -/
def State.withFetchWord (s : State) (nbits w : Nat) : State :=
  { s with
    rst := s.rst.set 0 false, rspPending := false, busy := false, reqTaken := false
    cmds := BitVec.ofNat 40 (w % 2 ^ nbits) :: s.cmds }

end Sys2Proof.Machine
end

