-- ==== Sys2Proof/Machine/Ports.lean ====
section
/-! DEFINITION. The block at its ports, one rising edge of `clk` at a time (rules R13, R18, R19, R170, R171): the clocked form of the
machine, with its own sequencing by `H.phase`. The machine of Step.lean runs a whole command in one step; the two are
compared by a statement. -/

namespace Sys2Proof.Machine

/-- The input ports at a rising edge (rule R19). -/
structure PortsIn where
  rst       : Bool
  cmdValid  : Bool
  cmdOp     : BitVec 8
  cmdArg    : BitVec 32
  rspReady  : Bool
  tReqReady : Bool
  tRspValid : Bool
  tRspFail  : Bool
  tRspErr   : Byte
  tRspRdata : Pair
  deriving DecidableEq, Repr

/-- The output ports (rule R19). -/
structure PortsOut where
  cmdReady   : Bool
  rspValid   : Bool
  rspStatus  : BitVec 2
  rspPresent : Bool
  rspErr     : Byte
  rspData    : BitVec 32
  tReqValid  : Bool
  tReqWrite  : Bool
  tReqDev    : BitVec 7
  tReqReg    : BitVec 8
  tReqWdata  : Pair
  tRspReady  : Bool
  deriving DecidableEq, Repr

/-- The register a request addresses. -/
def reqReg : Req → SensorReg
  | .read r => r
  | .write r _ => r

/-- `t_req_write` of a request. -/
def reqIsWrite : Req → Bool
  | .read _ => false
  | .write _ _ => true

/-- The payload `t_req_write`, `t_req_reg`, `t_req_wdata` of a request, on the free values `f`: the write data of a read are ignored
and have no value in rule R19 (log entry 10). -/
def reqPayload (f : FreeReq) : Req → FreeReq
  | .read r => ⟨false, r, f.wdata⟩
  | .write r p => ⟨true, r, p⟩

/-- A sequenced command reads the Configuration register first, then makes its second request, if any (rules R27, R111). -/
def firstThen (phase : BitVec 2) (second : Option Req) : Option Req :=
  match phase with
  | 0#2 => some (.read .configuration)
  | 1#2 => second
  | _ => none

/-- The request of a command after `phase` completed transactions, none when it has no more (rules R27, R111 to R131). The second
request of a WR or CSET command is computed from the kept Configuration answer. -/
def requestAt (i : Instr) (phase : BitVec 2) (cfg : Pair) : Option Req :=
  match i with
  | .decN _ _ => none
  | .decE _ _ => none
  | .encN _ => none
  | .encE _ => none
  | .c2f _ _ => none
  | .fgetSd _ => none
  | .fgetTm _ => none
  | .fgetPol _ => none
  | .fgetFq _ => none
  | .fgetOs _ => none
  | .fgetEm _ => none
  | .fgetAl _ => none
  | .fgetCr _ => none
  | .fsetSd _ _ => none
  | .fsetTm _ _ => none
  | .fsetPol _ _ => none
  | .fsetFq _ _ => none
  | .ftrigOs _ => none
  | .fsetEm _ _ => none
  | .fsetCr _ _ => none
  | .rdTemp => firstThen phase (some (.read .temperature))
  | .rdTlow => firstThen phase (some (.read .tLow))
  | .rdThigh => firstThen phase (some (.read .tHigh))
  | .wrTlow c => firstThen phase (some (.write .tLow (encodeTemp c (emOf cfg))))
  | .wrThigh c => firstThen phase (some (.write .tHigh (encodeTemp c (emOf cfg))))
  | .cgetSd => firstThen phase none
  | .cgetTm => firstThen phase none
  | .cgetPol => firstThen phase none
  | .cgetFq => firstThen phase none
  | .cgetOs => firstThen phase none
  | .cgetEm => firstThen phase none
  | .cgetAl => firstThen phase none
  | .cgetCr => firstThen phase none
  | .csetSd v => firstThen phase (some (.write .configuration (fieldSet cfg .sd v)))
  | .csetTm v => firstThen phase (some (.write .configuration (fieldSet cfg .tm v)))
  | .csetPol v => firstThen phase (some (.write .configuration (fieldSet cfg .pol v)))
  | .csetFq v => firstThen phase (some (.write .configuration (fieldSet cfg .fq v)))
  | .osTrig => firstThen phase (some (.write .configuration (fieldSet cfg .os 1#32)))
  | .csetEm v => firstThen phase (some (.write .configuration (fieldSet cfg .em v)))
  | .csetCr v => firstThen phase (some (.write .configuration (fieldSet cfg .cr v)))

/-- The response of a command all of whose transactions have completed, from the kept answers (rules R62 to R131). -/
def resultOf (i : Instr) (cfg data : Pair) : Rsp :=
  match i with
  | .decN byte0 byte1 => dCnt (decodeTemp (pairOf byte0 byte1) false)
  | .decE byte0 byte1 => dCnt (decodeTemp (pairOf byte0 byte1) true)
  | .encN c => dPair (encodeTemp c false)
  | .encE c => dPair (encodeTemp c true)
  | .c2f pin n => dFah pin n
  | .fgetSd img => dFld (fieldGet img .sd)
  | .fgetTm img => dFld (fieldGet img .tm)
  | .fgetPol img => dFld (fieldGet img .pol)
  | .fgetFq img => dFld (fieldGet img .fq)
  | .fgetOs img => dFld (fieldGet img .os)
  | .fgetEm img => dFld (fieldGet img .em)
  | .fgetAl img => dFld (fieldGet img .al)
  | .fgetCr img => dFld (fieldGet img .cr)
  | .fsetSd img v => dImg (fieldSet img .sd (v.setWidth 32))
  | .fsetTm img v => dImg (fieldSet img .tm (v.setWidth 32))
  | .fsetPol img v => dImg (fieldSet img .pol (v.setWidth 32))
  | .fsetFq img v => dImg (fieldSet img .fq (v.setWidth 32))
  | .ftrigOs img => dImg (fieldSet img .os 1#32)
  | .fsetEm img v => dImg (fieldSet img .em (v.setWidth 32))
  | .fsetCr img v => dImg (fieldSet img .cr (v.setWidth 32))
  | .rdTemp => dCnt (decodeTemp data (emOf cfg))
  | .rdTlow => dCnt (decodeTemp data (emOf cfg))
  | .rdThigh => dCnt (decodeTemp data (emOf cfg))
  | .wrTlow _ => dZero
  | .wrThigh _ => dZero
  | .cgetSd => dFld (fieldGet cfg .sd)
  | .cgetTm => dFld (fieldGet cfg .tm)
  | .cgetPol => dFld (fieldGet cfg .pol)
  | .cgetFq => dFld (fieldGet cfg .fq)
  | .cgetOs => dFld (fieldGet cfg .os)
  | .cgetEm => dFld (fieldGet cfg .em)
  | .cgetAl => dFld (fieldGet cfg .al)
  | .cgetCr => dFld (fieldGet cfg .cr)
  | .csetSd _ => dZero
  | .csetTm _ => dZero
  | .csetPol _ => dZero
  | .csetFq _ => dZero
  | .osTrig => dZero
  | .csetEm _ => dZero
  | .csetCr _ => dZero

/-- The request the command in flight has to make next. -/
def wantedReq (s : State) : Option Req :=
  match decode (s.op ++ s.arg) with
  | .ok i => requestAt i s.phase s.cfg
  | .error _ => none

/-- The response of the command in flight when it has no request left; ILLEGAL for a reserved code (rule R151). -/
def finishedRsp (s : State) : Rsp :=
  match decode (s.op ++ s.arg) with
  | .ok i => resultOf i s.cfg s.data
  | .error _ => rspIllegal

/-- A request is on the transport port: a command is in flight, its response not yet made, nothing unanswered. -/
def presentsReq (s : State) : Bool :=
  s.busy && !s.rspPending && !s.reqTaken && (wantedReq s).isSome

/-- What the request payload ports show: the request presented, and free values while none is (DESIGN CHOICE of form, log
entry 10). -/
def shownReq (s : State) : FreeReq :=
  if presentsReq s then
    ((wantedReq s).map (reqPayload (Config.freeReq s.freeNo))).getD (Config.freeReq s.freeNo)
  else Config.freeReq s.freeNo

/-- The output ports as functions of the state (rules R18, R19): `cmd_ready = ~H.busy`, `rsp_valid = H.rsp_pending`, and
`t_rsp_ready` exactly while a request is taken and unanswered. The response payload ports show `H.rsp` also while `rsp_valid`
is 0, where rule R19 gives them no value: the last response, or free values after a reset (DEDUCED from rule R13, log entry 23). -/
def portsOut (s : State) : PortsOut where
  cmdReady := !s.busy
  rspValid := s.rspPending
  rspStatus := s.rsp.extractLsb' 41 2
  rspPresent := s.rsp.getLsbD 40
  rspErr := s.rsp.extractLsb' 32 8
  rspData := s.rsp.extractLsb' 0 32
  tReqValid := presentsReq s
  tReqWrite := (shownReq s).write
  tReqDev := devCode s.devAddr
  tReqReg := regAddr (shownReq s).reg
  tReqWdata := (shownReq s).wdata
  tRspReady := s.reqTaken

/-- The transport's answer arrives: TFAIL, or the answer is kept and `phase` counts it (rules R13, R110, R152). It is taken as the answer
to the request outstanding: the ports do not tell it from a late answer to a transaction that reset abandoned (rule R171; DESIGN
CHOICE, log entry 24). -/
def takeAnswer (x : PortsIn) (s : State) : State :=
  match wantedReq s with
  | none => s
  | some q =>
    if x.tRspFail then raiseTfail x.tRspErr (reqReg q) (reqIsWrite q) { s with reqTaken := false }
    else latchAnswer q x.tRspRdata { s with reqTaken := false, phase := s.phase + 1#2 }

/-- The block between two transactions, or at its end: the request is taken if the transport is ready; with no request left the
response is made. -/
def advance (x : PortsIn) (s : State) : State :=
  match wantedReq s with
  | some q => if x.tReqReady then { logReq q s with reqTaken := true } else s
  | none => respond (finishedRsp s) s

/-- One rising edge of `clk` (rules R18, R19, R170, R171): reset wins; otherwise at most one transfer happens, because the
channels of an idle block, a block with a response, one awaiting an answer and one presenting a request exclude
each other. A late answer to a transaction abandoned by reset is ignored while no request is outstanding; once one is, log
entry 24 applies. -/
def clockEdge (x : PortsIn) (s : State) : State :=
  if x.rst then blockReset s
  else if s.rspPending then (if x.rspReady then releaseRsp s else s)
  else if !s.busy then (if x.cmdValid then acceptWord (x.cmdOp ++ x.cmdArg) s else s)
  else if s.reqTaken then (if x.tRspValid then takeAnswer x s else s)
  else advance x s

/-! ### The block with a prompt host and transport -/

/-- At this edge the transaction under way ends: it is answered, or reset cuts it off where its turn says so. -/
def endsTxn (s : State) : Bool :=
  s.busy && !s.rspPending && (wantedReq s).isSome &&
    match (s.turnAt 0).reply with
    | .ok => s.reqTaken
    | .fail _ _ => s.reqTaken
    | .silent _ => false
    | .reset .withdrawn => !s.reqTaken
    | .reset (.taken _) => s.reqTaken

/-- The transaction's effect in the sensor when it ends. -/
def endedMem (q : Req) (s : State) : Memory :=
  match (s.turnAt 0).reply with
  | .ok => storeReq q s.devAddr s.mem
  | .fail _ landed => if landed then storeReq q s.devAddr s.mem else s.mem
  | .silent _ => s.mem
  | .reset .withdrawn => s.mem
  | .reset (.taken landed) => if landed then storeReq q s.devAddr s.mem else s.mem

/-- The turn a transaction ends with is used up. -/
def outsideActs (s : State) : State :=
  match wantedReq s with
  | none => s
  | some q =>
    if endsTxn s then
      { beginTurn s with mem := endedMem q { s with mem := (beginTurn s).mem } }
    else s

/-- The input ports a prompt host and transport drive, from what State says of them. -/
def promptPorts (s : State) : PortsIn where
  rst := rstHighAt s 0 || (endsTxn s && match (s.turnAt 0).reply with
    | .reset _ => true
    | _ => false)
  cmdValid := !s.cmds.isEmpty
  cmdOp := opOf (s.cmds.headD 0#40)
  cmdArg := argOf (s.cmds.headD 0#40)
  rspReady := s.rspReady
  tReqReady := match (s.turnAt 0).reply with
    | .silent .withdrawn => false
    | .reset .withdrawn => false
    | _ => true
  tRspValid := match (s.turnAt 0).reply with
    | .ok => true
    | .fail _ _ => true
    | _ => false
  tRspFail := match (s.turnAt 0).reply with
    | .fail _ _ => true
    | _ => false
  tRspErr := match (s.turnAt 0).reply with
    | .fail e _ => e
    | _ => 0#8
  tRspRdata := match wantedReq s with
    | some q => answerOf q (beginTurn s)
    | none => 0#16

/-- One edge of the block with its prompt surroundings. A reset inside a command stands in its turn, not in `State.rst`. -/
def systemEdge (s : State) : State :=
  if rstHighAt s 0 then clockEdge (promptPorts s) (passStep s)
  else if s.rspPending then
    clockEdge (promptPorts s)
      { passStep s with taken := if s.rspReady then s.taken ++ (readRsp s.rsp).toList else s.taken }
  else if s.busy then clockEdge (promptPorts s) (outsideActs (passStep s))
  else clockEdge (promptPorts s) { passStep s with cmds := s.cmds.tail }

end Sys2Proof.Machine
end

