-- ==== Sys2Proof/Machine/Assembler.lean ====
section
/-! DEFINITION. The operation-code map of rule R43 as a table, and the textual form of commands and responses (rule R47) at the level
of mnemonics and operand values (DESIGN CHOICE, log entry 15). -/

namespace Sys2Proof.Machine

/-- The argument formats (rule R42). -/
inductive ArgFormat where
  | pair | cel | cnt | img | imgv | val | none
  deriving DecidableEq, Repr

/-- The result formats (rule R42). -/
inductive ResFormat where
  | cnt | fah | pair | img | fld | zero
  deriving DecidableEq, Repr

/-- One row of the map: the transport column lists (true for a write, register) in order. -/
structure OpRow where
  mnemonic  : String
  op        : BitVec 8
  arg       : ArgFormat
  res       : ResFormat
  transport : List (Bool × SensorReg)
  deriving DecidableEq, Repr

/-- Class 0: the temperature codec (rule R43). -/
def codecRows : List OpRow :=
  [⟨"DEC.N", 0x00#8, .pair, .cnt, []⟩,
   ⟨"DEC.E", 0x01#8, .pair, .cnt, []⟩,
   ⟨"ENC.N", 0x02#8, .cel, .pair, []⟩,
   ⟨"ENC.E", 0x03#8, .cel, .pair, []⟩,
   ⟨"C2F", 0x04#8, .cnt, .fah, []⟩]

/-- Class 1: FGET (rule R43). -/
def imageGetRows : List OpRow :=
  [⟨"FGET.SD", 0x10#8, .img, .fld, []⟩,
   ⟨"FGET.TM", 0x11#8, .img, .fld, []⟩,
   ⟨"FGET.POL", 0x12#8, .img, .fld, []⟩,
   ⟨"FGET.FQ", 0x13#8, .img, .fld, []⟩,
   ⟨"FGET.OS", 0x14#8, .img, .fld, []⟩,
   ⟨"FGET.EM", 0x15#8, .img, .fld, []⟩,
   ⟨"FGET.AL", 0x16#8, .img, .fld, []⟩,
   ⟨"FGET.CR", 0x17#8, .img, .fld, []⟩]

/-- Class 2: FSET and FTRIG.OS (rule R43). -/
def imageSetRows : List OpRow :=
  [⟨"FSET.SD", 0x20#8, .imgv, .img, []⟩,
   ⟨"FSET.TM", 0x21#8, .imgv, .img, []⟩,
   ⟨"FSET.POL", 0x22#8, .imgv, .img, []⟩,
   ⟨"FSET.FQ", 0x23#8, .imgv, .img, []⟩,
   ⟨"FTRIG.OS", 0x24#8, .img, .img, []⟩,
   ⟨"FSET.EM", 0x25#8, .imgv, .img, []⟩,
   ⟨"FSET.CR", 0x27#8, .imgv, .img, []⟩]

/-- Classes 4 and 5: RD and WR (rule R43). -/
def accessRows : List OpRow :=
  [⟨"RD.TEMP", 0x40#8, .none, .cnt, [(false, .configuration), (false, .temperature)]⟩,
   ⟨"RD.TLOW", 0x42#8, .none, .cnt, [(false, .configuration), (false, .tLow)]⟩,
   ⟨"RD.THIGH", 0x43#8, .none, .cnt, [(false, .configuration), (false, .tHigh)]⟩,
   ⟨"WR.TLOW", 0x52#8, .cel, .zero, [(false, .configuration), (true, .tLow)]⟩,
   ⟨"WR.THIGH", 0x53#8, .cel, .zero, [(false, .configuration), (true, .tHigh)]⟩]

/-- Class 6: CGET (rule R43). -/
def sensorGetRows : List OpRow :=
  [⟨"CGET.SD", 0x60#8, .none, .fld, [(false, .configuration)]⟩,
   ⟨"CGET.TM", 0x61#8, .none, .fld, [(false, .configuration)]⟩,
   ⟨"CGET.POL", 0x62#8, .none, .fld, [(false, .configuration)]⟩,
   ⟨"CGET.FQ", 0x63#8, .none, .fld, [(false, .configuration)]⟩,
   ⟨"CGET.OS", 0x64#8, .none, .fld, [(false, .configuration)]⟩,
   ⟨"CGET.EM", 0x65#8, .none, .fld, [(false, .configuration)]⟩,
   ⟨"CGET.AL", 0x66#8, .none, .fld, [(false, .configuration)]⟩,
   ⟨"CGET.CR", 0x67#8, .none, .fld, [(false, .configuration)]⟩]

/-- Class 7: CSET and OS.TRIG (rule R43). -/
def sensorSetRows : List OpRow :=
  [⟨"CSET.SD", 0x70#8, .val, .zero, [(false, .configuration), (true, .configuration)]⟩,
   ⟨"CSET.TM", 0x71#8, .val, .zero, [(false, .configuration), (true, .configuration)]⟩,
   ⟨"CSET.POL", 0x72#8, .val, .zero, [(false, .configuration), (true, .configuration)]⟩,
   ⟨"CSET.FQ", 0x73#8, .val, .zero, [(false, .configuration), (true, .configuration)]⟩,
   ⟨"OS.TRIG", 0x74#8, .none, .zero, [(false, .configuration), (true, .configuration)]⟩,
   ⟨"CSET.EM", 0x75#8, .val, .zero, [(false, .configuration), (true, .configuration)]⟩,
   ⟨"CSET.CR", 0x77#8, .val, .zero, [(false, .configuration), (true, .configuration)]⟩]

/-- The operation-code map (rule R43). -/
def opTable : List OpRow :=
  codecRows ++ imageGetRows ++ imageSetRows ++ accessRows ++ sensorGetRows ++ sensorSetRows

/-- The row of a mnemonic. -/
def findRow (mnemonic : String) : Option OpRow := opTable.find? fun r => r.mnemonic == mnemonic

/-- The operands of one line of assembler text (rule R47). -/
inductive AsmOperands where
  /-- `b0, b1` -/
  | bytes (b0 b1 : Nat)
  /-- `#c`, the CelsiusIn itself -/
  | celsius (c : Int)
  /-- a decimal number of degrees, `num / den` -/
  | degrees (num : Int) (den : Nat)
  /-- a count `n` -/
  | count (n : Int)
  /-- the word `absent` -/
  | absent
  /-- `b0, b1, v` -/
  | bytesValue (b0 b1 v : Nat)
  /-- `v` -/
  | value (v : Nat)
  /-- no operand -/
  | nothing
  deriving DecidableEq, Repr

/-- The argument a line stands for, with 0 in every ignored bit; none where the operands have not the format's shape or do not
fit it (rule R47). -/
def asmArg (f : ArgFormat) (x : AsmOperands) : Option (BitVec 32) :=
  match f, x with
  | .pair, .bytes b0 b1 =>
    if b0 < 256 ∧ b1 < 256 then some (putPair (BitVec.ofNat 8 b0) (BitVec.ofNat 8 b1)) else none
  | .img, .bytes b0 b1 =>
    if b0 < 256 ∧ b1 < 256 then some (putImage (pairOf (BitVec.ofNat 8 b0) (BitVec.ofNat 8 b1))) else none
  | .imgv, .bytesValue b0 b1 v =>
    if b0 < 256 ∧ b1 < 256 ∧ v < 65536 then
      some (putImageValue (pairOf (BitVec.ofNat 8 b0) (BitVec.ofNat 8 b1)) (BitVec.ofNat 16 v))
    else none
  | .cel, .celsius c => if isCelsiusIn c then some (putCelsius c) else none
  | .cel, .degrees num den =>
    if den = 0 then none
    else if isCelsiusIn (trunc0 (num * 65536) den) then some (putCelsius (trunc0 (num * 65536) den)) else none
  | .cnt, .count n => if isCount n then some (putCount true n) else none
  | .cnt, .absent => some (putCount false 0)
  | .val, .value v => if v < 4294967296 then some (BitVec.ofNat 32 v) else none
  | .none, .nothing => some 0#32
  | _, _ => none

/-- Assemble one line (rule R47). -/
def assemble (r : OpRow) (x : AsmOperands) : Option CmdWord := (asmArg r.arg x).map fun a => r.op ++ a

/-- How a response is written (rule R47). -/
inductive RspText where
  /-- `OK present data` -/
  | okPresent (data : BitVec 32)
  /-- `OK absent` -/
  | okAbsent
  /-- `TFAIL err data` -/
  | tfail (err : Byte) (data : BitVec 32)
  /-- `ILLEGAL` -/
  | illegal
  deriving DecidableEq, Repr

/-- The written form of a response (rule R47). -/
def rspText (r : Rsp) : RspText :=
  match r.status with
  | .ok => if r.present then .okPresent r.data else .okAbsent
  | .tfail => .tfail r.err r.data
  | .illegal => .illegal

end Sys2Proof.Machine
end

