-- ==== Sys2Proof/Machine/Pseudo.lean ====
section
/-! DEFINITION. The seven pseudo-commands of rule R48: aliases of a command, or two commands between which the host carries the
value. None adds an operation code. -/

namespace Sys2Proof.Machine

/-- The pseudo-commands (rule R48). -/
inductive Pseudo where
  | sleep | wake | osStatus | alert | rdTempF | rdTlowF | rdThighF
  deriving DecidableEq, Repr

/-- The command, or first command, of a pseudo-command (rule R48). -/
def pseudoFirst : Pseudo → Instr
  | .sleep => .csetSd 1#32
  | .wake => .csetSd 0#32
  | .osStatus => .cgetOs
  | .alert => .cgetAl
  | .rdTempF => .rdTemp
  | .rdTlowF => .rdTlow
  | .rdThighF => .rdThigh

/-- The C2F the host builds from a response: `arg[15:0] = data[15:0]` and `arg[16] = present` (rule R48). -/
def followC2f (r : Rsp) : Instr := .c2f r.present (r.data.extractLsb' 0 16).toInt

/-- The second command, given the response of the first: only the Fahrenheit reads have one, and only when the first ended with
status OK (rule R48). -/
def pseudoSecond (p : Pseudo) (r : Rsp) : Option Instr :=
  match p with
  | .sleep => none
  | .wake => none
  | .osStatus => none
  | .alert => none
  | .rdTempF => if r.status = .ok then some (followC2f r) else none
  | .rdTlowF => if r.status = .ok then some (followC2f r) else none
  | .rdThighF => if r.status = .ok then some (followC2f r) else none

end Sys2Proof.Machine
end

