-- ==== Sys2Proof/Safety.lean ====
section
/-! DEFINITION. What counts as a sound state of the machine and as the end of a run, in the terms the statements use. -/

namespace Sys2Proof.Machine

/-- The block is idle: no command in flight, no response pending, no request outstanding (rules R17, R170). -/
def Idle (s : State) : Prop :=
  s.busy = false ∧ s.rspPending = false ∧ s.reqTaken = false

/-- The end of a run (rule R185): the response of the last command presented has been taken. It says nothing of the sensor. -/
def RunOver (s : State) : Prop := Idle s ∧ s.cmds = []

/-- Nothing happens outside between two transactions, and this one succeeds (the simple-storage sensor of decision D28). -/
def quietTurn : Turn := ⟨[], .ok⟩

/-- The next `k` transactions succeed. -/
def Answered (k : Nat) (s : State) : Prop := ∀ j < k, (s.turnAt j).reply = .ok

/-- The next `k` transactions are quiet and succeed (decision D28). -/
def Quiet (k : Nat) (s : State) : Prop := ∀ j < k, s.turnAt j = quietTurn

/-- The sensor's space as the coming transaction finds it: the outside has acted (rules R29, R31). -/
def memBefore (s : State) : Memory := applyChanges s.devAddr (s.turnAt 0).before s.mem

/-- What a register holds at the coming transaction. -/
def seenNow (s : State) (r : SensorReg) : Pair := readPair (memBefore s) s.devAddr r

/-- The state after a successful read of the Configuration register: the first transaction of every sequenced command
(rules R27, R111). -/
def afterCfgRead (s : State) : State := completeReq (.read .configuration) (beginTurn s)

/-- A listed address is that of a byte of one of the four registers of device `d` (rule R20). -/
def inSpace (d : DevAddr) (a : Nat) : Bool := a / 512 == (devCode d).toNat && decide (a % 512 < 8)

/-- A request the block may make: on the device it is bound to, and no write of the read-only Temperature register (rules R20, R21,
R27). -/
def txnLegal (d : DevAddr) (x : Txn) : Bool :=
  x.dev == d && match x.req with
    | .write .temperature _ => false
    | _ => true

/-- The invariant of every step. -/
structure Sound (s : State) : Prop where
  memWf     : Memory.wf s.mem = true
  memSpace  : ∀ c ∈ s.mem, inSpace s.devAddr c.1 = true
  busLegal  : ∀ x ∈ s.bus, txnLegal s.devAddr x = true
  pendBusy  : s.rspPending = true → s.busy = true
  takenBusy : s.reqTaken = true → s.busy = true ∧ s.rspPending = false
  phaseLe   : s.phase.toNat ≤ 2
  rspLegal  : s.rspPending = true → Machine.rspLegal s.rsp = true

/-! ### The statements' own reading of the rules, in integers -/

/-- `signed_W(v)` (spec/00_scope.md section 6). -/
def signedOf (w v : Nat) : Int := if v < 2 ^ (w - 1) then (v : Int) else (v : Int) - 2 ^ w

/-- `twos_W(i)` (spec/00_scope.md section 6). -/
def twosOf (w : Nat) (i : Int) : Nat := (i % 2 ^ w).toNat

/-- The clamped and truncated CelsiusIn, in 1/16 degree steps (rules R70, R71). -/
def rawOf (c : Int) : Int := (max (-3604480) (min c 9830400)).tdiv 4096

/-- The count of a pair: `signed_13(byte0 ‖ byte1[7:3])` or `signed_12(byte0 ‖ byte1[7:4])` (rule R61). -/
def countOf (p : Nat) (em : Bool) : Int := if em then signedOf 13 (p / 8) else signedOf 12 (p / 16)

/-- The pair of a count, left-justified over 0 bits (rules R26, R72). -/
def pairNat (raw : Int) (em : Bool) : Nat := if em then 8 * twosOf 13 raw else 16 * twosOf 12 raw

/-- `width` bits of `n` from bit `lo` up. -/
def bitsGet (lo width n : Nat) : Nat := n / 2 ^ lo % 2 ^ width

/-- `n` with `width` bits from bit `lo` up replaced by the low bits of `v`. -/
def bitsSet (lo width n v : Nat) : Nat := n - bitsGet lo width n * 2 ^ lo + v % 2 ^ width * 2 ^ lo

/-- The lowest bit of a field in an image (rules R80, R83 to R90). -/
def fieldLo : CfgField → Nat
  | .sd => 8
  | .tm => 9
  | .pol => 10
  | .fq => 11
  | .os => 15
  | .em => 4
  | .al => 5
  | .cr => 6

/-- The width of a field (rule R80). -/
def fieldWidth : CfgField → Nat
  | .sd => 1
  | .tm => 1
  | .pol => 1
  | .fq => 2
  | .os => 1
  | .em => 1
  | .al => 1
  | .cr => 2

/-- A response is pending, and its word is status, present, err and data at the places of rule R41. -/
def Response (t : State) (status present err data : Nat) : Prop :=
  t.rspPending = true ∧ t.rsp.toNat = status * 2 ^ 41 + present * 2 ^ 40 + err * 2 ^ 32 + data

/-- The response of a decoded pair (rules R60, R61, R42 format D-CNT). -/
def CountResponse (t : State) (p : Nat) (em : Bool) : Prop :=
  if p = 65535 then Response t 0 0 0 0 else Response t 0 1 0 (twosOf 32 (countOf p em))

/-! ### The instructions of one shape -/

/-- The getters on an image: code, command, field (rule R43). -/
def imageGetters : List (BitVec 8 × (Pair → Instr) × CfgField) :=
  [(0x10#8, .fgetSd, .sd), (0x11#8, .fgetTm, .tm), (0x12#8, .fgetPol, .pol), (0x13#8, .fgetFq, .fq),
   (0x14#8, .fgetOs, .os), (0x15#8, .fgetEm, .em), (0x16#8, .fgetAl, .al), (0x17#8, .fgetCr, .cr)]

/-- The setters on an image: code, command, field (rule R43). -/
def imageSetters : List (BitVec 8 × (Pair → BitVec 16 → Instr) × CfgField) :=
  [(0x20#8, .fsetSd, .sd), (0x21#8, .fsetTm, .tm), (0x22#8, .fsetPol, .pol), (0x23#8, .fsetFq, .fq),
   (0x25#8, .fsetEm, .em), (0x27#8, .fsetCr, .cr)]

/-- The temperature and threshold reads: code, command, register (rule R43). -/
def countReaders : List (BitVec 8 × Instr × SensorReg) :=
  [(0x40#8, .rdTemp, .temperature), (0x42#8, .rdTlow, .tLow), (0x43#8, .rdThigh, .tHigh)]

/-- The threshold writes: code, command, register (rule R43). -/
def thresholdWriters : List (BitVec 8 × (Int → Instr) × SensorReg) :=
  [(0x52#8, .wrTlow, .tLow), (0x53#8, .wrThigh, .tHigh)]

/-- The getters on the sensor: code, command, field (rule R43). -/
def sensorGetters : List (BitVec 8 × Instr × CfgField) :=
  [(0x60#8, .cgetSd, .sd), (0x61#8, .cgetTm, .tm), (0x62#8, .cgetPol, .pol), (0x63#8, .cgetFq, .fq),
   (0x64#8, .cgetOs, .os), (0x65#8, .cgetEm, .em), (0x66#8, .cgetAl, .al), (0x67#8, .cgetCr, .cr)]

/-- The setters on the sensor: code, command, field (rule R43). -/
def sensorSetters : List (BitVec 8 × (BitVec 32 → Instr) × CfgField) :=
  [(0x70#8, .csetSd, .sd), (0x71#8, .csetTm, .tm), (0x72#8, .csetPol, .pol), (0x73#8, .csetFq, .fq),
   (0x75#8, .csetEm, .em), (0x77#8, .csetCr, .cr)]

/-- The sequenced commands are classes 4 to 7 of the map (rule R43). -/
def Sequenced (i : Instr) : Prop := 64 ≤ i.opCode.toNat

/-- The Fahrenheit reads: pseudo-command, register (rule R48). -/
def fahrenheitReads : List (Pseudo × SensorReg) :=
  [(.rdTempF, .temperature), (.rdTlowF, .tLow), (.rdThighF, .tHigh)]

/-! ### Words and lines -/

/-- The bits of `arg` an argument format does not name (rule R42). -/
def ignoredBits : ArgFormat → BitVec 32
  | .pair => 0xFFFF0000#32
  | .cel => 0#32
  | .cnt => 0xFFFE0000#32
  | .img => 0xFFFF0000#32
  | .imgv => 0#32
  | .val => 0#32
  | .none => 0xFFFFFFFF#32

/-- The two bytes of an image as a line writes them (rule R47, A-IMG). -/
def lineOfImage (img : Pair) : AsmOperands := .bytes (img.toNat / 256) (img.toNat % 256)

/-- The bytes of an image and a value as a line writes them (rule R47, A-IMGV). -/
def lineOfImageValue (img : Pair) (v : BitVec 16) : AsmOperands :=
  .bytesValue (img.toNat / 256) (img.toNat % 256) v.toNat

/-- The operands a line writes for a command, format by format (rule R47). -/
def lineOf : Instr → AsmOperands
  | .decN byte0 byte1 => .bytes byte0.toNat byte1.toNat
  | .decE byte0 byte1 => .bytes byte0.toNat byte1.toNat
  | .encN c => .celsius c
  | .encE c => .celsius c
  | .c2f pin n => if pin then .count n else .absent
  | .fgetSd img => lineOfImage img
  | .fgetTm img => lineOfImage img
  | .fgetPol img => lineOfImage img
  | .fgetFq img => lineOfImage img
  | .fgetOs img => lineOfImage img
  | .fgetEm img => lineOfImage img
  | .fgetAl img => lineOfImage img
  | .fgetCr img => lineOfImage img
  | .fsetSd img v => lineOfImageValue img v
  | .fsetTm img v => lineOfImageValue img v
  | .fsetPol img v => lineOfImageValue img v
  | .fsetFq img v => lineOfImageValue img v
  | .ftrigOs img => lineOfImage img
  | .fsetEm img v => lineOfImageValue img v
  | .fsetCr img v => lineOfImageValue img v
  | .rdTemp => .nothing
  | .rdTlow => .nothing
  | .rdThigh => .nothing
  | .wrTlow c => .celsius c
  | .wrThigh c => .celsius c
  | .cgetSd => .nothing
  | .cgetTm => .nothing
  | .cgetPol => .nothing
  | .cgetFq => .nothing
  | .cgetOs => .nothing
  | .cgetEm => .nothing
  | .cgetAl => .nothing
  | .cgetCr => .nothing
  | .csetSd v => .value v.toNat
  | .csetTm v => .value v.toNat
  | .csetPol v => .value v.toNat
  | .csetFq v => .value v.toNat
  | .osTrig => .nothing
  | .csetEm v => .value v.toNat
  | .csetCr v => .value v.toNat

/-- The operands of a line give this command: those the command's own line has; a number of degrees gives the CelsiusIn
`trunc0(d × 65536, 1)`, and the word `absent` a count of 0 (rule R47). -/
def LineGives (x : AsmOperands) (i : Instr) : Prop :=
  match x with
  | .degrees num den => den ≠ 0 ∧ lineOf i = .celsius ((num * 65536).tdiv den)
  | .absent => i = .c2f false 0
  | x => lineOf i = x

/-! ### Frames: what a command leaves as it was -/

/-- Only the response differs. -/
def OnlyResponse (s t : State) : Prop :=
  t = { s with rsp := t.rsp, rspPending := t.rspPending }

/-- The space of the sensor at the second transaction of a command whose first, the read of the Configuration register, succeeded. -/
def memAtSecond (s : State) : Memory := memBefore (afterCfgRead s)

/-- What a register holds at the second transaction. -/
def seenSecond (s : State) (r : SensorReg) : Pair := readPair (memAtSecond s) s.devAddr r

/-- When its first transaction, the read of the Configuration register, fails, a command ends TFAIL: no second request, nothing written,
nothing else changed (rules R110, R152, R156). `H.phase`, `H.cfg` and `H.data` are left out: they are log entry 6. -/
def TfailFirst (i : Instr) (s : State) : Prop :=
  ∀ (e : Byte) (l : Bool), (s.turnAt 0).reply = .fail e l →
    ∃ t, exec i s = .next t ∧ Response t 1 0 e.toNat 1 ∧
      t = { s with
        cfg := t.cfg, data := t.data, phase := t.phase
        bus := s.bus ++ [⟨s.devAddr, .read .configuration⟩], turns := s.turns.drop 1, freeNo := s.freeNo + 1
        mem := memBefore s, rsp := t.rsp, rspPending := true }

/-- When its second request fails, a command ends TFAIL with that request's register and direction; a failed write has either left the
register or replaced it (rules R30, R110, R152, R156). `H.phase`, `H.cfg` and `H.data` are left out: they are log entry 6. -/
def TfailSecond (i : Instr) (s : State) : Prop :=
  ∀ (q : Req) (e : Byte) (l : Bool),
    requestAt i 1#2 (seenNow s .configuration) = some q →
    (s.turnAt 0).reply = .ok → (s.turnAt 1).reply = .fail e l →
    ∃ t, exec i s = .next t ∧
      Response t 1 0 e.toNat ((if reqIsWrite q then 256 else 0) + (regAddr (reqReg q)).toNat) ∧
      t = { s with
        cfg := t.cfg, data := t.data, phase := t.phase
        bus := s.bus ++ [⟨s.devAddr, .read .configuration⟩, ⟨s.devAddr, q⟩]
        turns := s.turns.drop 2, freeNo := s.freeNo + 2
        mem := if l then storeReq q s.devAddr (memAtSecond s) else memAtSecond s
        rsp := t.rsp, rspPending := true }

/-- A command waits for ever: it leaves the block busy, without a response, in a state the step does not change (U8, log
entry 8). -/
def Waits (i : Instr) (s : State) : Prop :=
  ∃ t, exec i s = .next t ∧ t.busy = true ∧ t.rspPending = false ∧ step t = .next t

/-- Reset has cut a command off: the block is in the reset state, and no response is left or delivered (rules R17, R171). The host and the
device address are as they were. -/
def CutOff (s t : State) : Prop :=
  t.busy = false ∧ t.rspPending = false ∧ t.reqTaken = false ∧ t.phase = 0#2 ∧
  t.taken = s.taken ∧ t.cmds = s.cmds ∧ t.rspReady = s.rspReady ∧ t.rst = s.rst ∧ t.devAddr = s.devAddr

/-- One read of the Configuration register has succeeded and a response is made; nothing else differs, and the sensor holds what the
outside left in it. -/
def OneReadFrame (s t : State) : Prop :=
  t = { s with
    cfg := seenNow s .configuration, phase := s.phase + 1#2
    bus := s.bus ++ [⟨s.devAddr, .read .configuration⟩]
    turns := s.turns.drop 1, freeNo := s.freeNo + 1
    mem := memBefore s, rsp := t.rsp, rspPending := t.rspPending }

/-- Two reads have succeeded, the second of register `r`; nothing else differs. -/
def TwoReadFrame (s t : State) (r : SensorReg) : Prop :=
  t = { s with
    cfg := seenNow s .configuration, data := seenSecond s r, phase := s.phase + 2#2
    bus := s.bus ++ [⟨s.devAddr, .read .configuration⟩, ⟨s.devAddr, .read r⟩]
    turns := s.turns.drop 2, freeNo := s.freeNo + 2
    mem := memAtSecond s, rsp := t.rsp, rspPending := t.rspPending }

/-- A read of the Configuration register and a write of register `r` have succeeded; outside `r` every byte of the sensor reads as the
outside left it, and nothing else differs. -/
def ReadWriteFrame (s t : State) (r : SensorReg) (n : Nat) : Prop :=
  t = { s with
    cfg := seenNow s .configuration, phase := s.phase + 2#2
    bus := s.bus ++ [⟨s.devAddr, .read .configuration⟩, ⟨s.devAddr, .write r (BitVec.ofNat 16 n)⟩]
    turns := s.turns.drop 2, freeNo := s.freeNo + 2
    mem := t.mem, rsp := t.rsp, rspPending := t.rspPending } ∧
  ∀ a, (byteAt t.mem a).toNat =
    if a = cellKey s.devAddr r then n / 256
    else if a = cellKey s.devAddr r + 1 then n % 256
    else (byteAt (memAtSecond s) a).toNat

end Sys2Proof.Machine
end

