-- ==== Sys2Proof/Certificates/Slice0/Obligations.lean ====
section
/-! DEFINITION. The statements about the machine, each from the spec's numbered rules. -/

open Sys2Proof Sys2Proof.Machine

/-! ### Encoding -/

/-- Decoding the encoding of a well-formed instruction gives it back, for all 40 and every operand. -/
def Obligations.DecodeOfEncode : Prop :=
  ∀ i : Instr, i.wellFormed = true → decode (encode i) = .ok i

/-- What decodes is well formed, has the word's operation code, is the decoding of its own encoding too, and that encoding is the word
with the bits its argument format ignores cleared: no other bit is lost. -/
def Obligations.EncodeOfDecode : Prop :=
  ∀ (w : CmdWord) (i : Instr), decode w = .ok i →
    i.wellFormed = true ∧ i.opCode = opOf w ∧ decode (encode i) = decode w ∧
    ∀ r ∈ opTable, r.op = opOf w → encode i = opOf w ++ (argOf w &&& ~~~(ignoredBits r.arg))

/-- Words written out from the encodings of rule R43 and the examples of rule R47 decode to the commands they stand for. -/
def Obligations.WrittenWordsDecode : Prop :=
  decode 0x0000001900#40 = .ok (.decN 0x19#8 0x00#8) ∧
  decode 0x0200190000#40 = .ok (.encN 1638400) ∧
  decode 0x0400010190#40 = .ok (.c2f true 400) ∧
  decode 0x17000060A0#40 = .ok (.fgetCr 0x60A0#16) ∧
  decode 0x27000360A0#40 = .ok (.fsetCr 0x60A0#16 3#16) ∧
  decode 0x7700000003#40 = .ok (.csetCr 3#32) ∧
  decode 0x4000000000#40 = .ok .rdTemp

/-- A command word is a command exactly when its operation code is in the map, whatever its argument; the map has 40 different
codes. -/
def Obligations.OpAloneDecides : Prop :=
  (∀ w : CmdWord, (∃ i, decode w = .ok i) ↔ ∃ r ∈ opTable, r.op = opOf w) ∧
  (opTable.map OpRow.op).length = 40 ∧ (opTable.map OpRow.op).Nodup

/-- An assembled line is the encoding, with 0 in every ignored bit, of the well-formed command with the row's code that the line's
operands give; and every command but an absent C2F with a count has its line. Lines are operand values, not text (log entry 15). -/
def Obligations.AssembledLineEncodes : Prop :=
  ∀ r ∈ opTable,
    (∀ (x : AsmOperands) (w : CmdWord), assemble r x = some w →
      ∃ i, i.wellFormed = true ∧ i.opCode = r.op ∧ LineGives x i ∧ encode i = w ∧ decode w = .ok i) ∧
    (∀ i : Instr, i.wellFormed = true → i.opCode = r.op → (∀ n, i = .c2f false n → n = 0) →
      assemble r (lineOf i) = some (encode i))

/-! ### The temperature decoder -/

/-- DEC.N and DEC.E. -/
def Obligations.DecCommandsRespond : Prop :=
  ∀ (b0 b1 : Byte) (x : BitVec 16) (s : State),
    (decode (0x00#8 ++ (x ++ b0 ++ b1)) = .ok (.decN b0 b1) ∧
      ∃ t, exec (.decN b0 b1) s = .next t ∧ OnlyResponse s t ∧
        CountResponse t (b0.toNat * 256 + b1.toNat) false) ∧
    (decode (0x01#8 ++ (x ++ b0 ++ b1)) = .ok (.decE b0 b1) ∧
      ∃ t, exec (.decE b0 b1) s = .next t ∧ OnlyResponse s t ∧
        CountResponse t (b0.toNat * 256 + b1.toNat) true)

/-- C2F. -/
def Obligations.C2fCommandResponds : Prop :=
  ∀ (pin : Bool) (n : Int) (x : BitVec 15) (s : State), isCount n = true →
    decode (0x04#8 ++ (x ++ BitVec.ofBool pin ++ BitVec.ofInt 16 n)) = .ok (.c2f pin n) ∧
    ∃ t, exec (.c2f pin n) s = .next t ∧ OnlyResponse s t ∧
      if pin then Response t 0 1 0 (twosOf 32 (9 * n + 2560)) else Response t 0 0 0 0

/-- The sentinel is one pair, in both modes. -/
def Obligations.SentinelAloneIsAbsent : Prop :=
  ∀ (p : Pair) (em : Bool), decodeTemp p em = none ↔ p = 0xFFFF#16

/-- The counts of each mode are exactly its range (the spec derives it: R64). -/
def Obligations.DecodeIsOntoItsRange : Prop :=
  (∀ n : Int, (∃ (p : Pair) (k : Count), decodeTemp p false = some k ∧ k.toInt = n) ↔ -2048 ≤ n ∧ n ≤ 2047) ∧
  (∀ n : Int, (∃ (p : Pair) (k : Count), decodeTemp p true = some k ∧ k.toInt = n) ↔ -4096 ≤ n ∧ n ≤ 4095)

/-- Pairs that differ only in the ignored bits decode alike (the spec derives it: R66). -/
def Obligations.LowBitsIgnored : Prop :=
  ∀ p q : Pair, p ≠ 0xFFFF#16 → q ≠ 0xFFFF#16 →
    (p.toNat / 16 = q.toNat / 16 → decodeTemp p false = decodeTemp q false) ∧
    (p.toNat / 8 = q.toNat / 8 → decodeTemp p true = decodeTemp q true)

/-! ### The threshold encoder -/

/-- ENC.N and ENC.E. -/
def Obligations.EncCommandsRespond : Prop :=
  ∀ (c : Int) (s : State), isCelsiusIn c = true →
    (decode (0x02#8 ++ BitVec.ofInt 32 c) = .ok (.encN c) ∧
      ∃ t, exec (.encN c) s = .next t ∧ OnlyResponse s t ∧ Response t 0 1 0 (pairNat (rawOf c) false)) ∧
    (decode (0x03#8 ++ BitVec.ofInt 32 c) = .ok (.encE c) ∧
      ∃ t, exec (.encE c) s = .next t ∧ OnlyResponse s t ∧ Response t 0 1 0 (pairNat (rawOf c) true))

/-- The quantiser truncates toward zero: a shift for a non-negative input, the negated shift for a negative one; the error is below one
step and has the sign of the input. -/
def Obligations.QuantTruncatesTowardZero : Prop :=
  ∀ c : Int,
    (0 ≤ c → quant c = c / 4096 ∧ 0 ≤ c - 4096 * quant c ∧ c - 4096 * quant c < 4096) ∧
    (c < 0 → quant c = -((-c) / 4096) ∧ -4096 < c - 4096 * quant c ∧ c - 4096 * quant c ≤ 0) ∧
    quant c = (c + if c < 0 then 4095 else 0) / 4096 ∧
    -880 ≤ quant (clampCelsius c) ∧ quant (clampCelsius c) ≤ 2400

/-- The encoder's ranges (the spec derives them: R76). -/
def Obligations.EncoderRanges : Prop :=
  ∀ (c : Int) (em : Bool),
    encodeTemp c em ≠ 0xFFFF#16 ∧
    (encodeTemp c true).toNat % 8 = 0 ∧ (encodeTemp c false).toNat % 16 = 0 ∧
    ((byte0 (encodeTemp c false)).toNat ≤ 0x96 ∨ 0xC9 ≤ (byte0 (encodeTemp c false)).toNat) ∧
    ((byte0 (encodeTemp c true)).toNat ≤ 0x4B ∨ 0xE4 ≤ (byte0 (encodeTemp c true)).toNat)

/-- Encode then decode: the truncated value comes back where the mode can hold it, never absent; above that, normal mode reads back 4096
lower (the spec derives it: R77, R78). -/
def Obligations.EncodeThenDecode : Prop :=
  ∀ (c : Int) (em : Bool),
    ((em = true ∨ quant (clampCelsius c) ≤ 2047) →
      ∃ k, decodeTemp (encodeTemp c em) em = some k ∧ k.toInt = quant (clampCelsius c)) ∧
    (2048 ≤ quant (clampCelsius c) →
      ∃ k, decodeTemp (encodeTemp c false) false = some k ∧ k.toInt = quant (clampCelsius c) - 4096) ∧
    decodeTemp (encodeTemp c em) em ≠ none

/-- Decode then encode: the pair comes back with its ignored bits cleared (the spec derives it: R78). -/
def Obligations.DecodeThenEncode : Prop :=
  ∀ (p : Pair) (em : Bool) (k : Count), decodeTemp p em = some k →
    (-880 ≤ k.toInt → k.toInt ≤ 2400 →
      encodeTemp (4096 * k.toInt) em = if em then p &&& 0xFFF8#16 else p &&& 0xFFF0#16) ∧
    (2400 < k.toInt → encodeTemp (4096 * k.toInt) em = encodeTemp 9830400 em) ∧
    (k.toInt < -880 → encodeTemp (4096 * k.toInt) em = encodeTemp (-3604480) em)

/-! ### The configuration fields -/

/-- The FGET commands. -/
def Obligations.FgetCommandsRespond : Prop :=
  ∀ g ∈ imageGetters, ∀ (img : Pair) (x : BitVec 16) (s : State),
    decode (g.1 ++ (x ++ img)) = .ok (g.2.1 img) ∧
    ∃ t, exec (g.2.1 img) s = .next t ∧ OnlyResponse s t ∧
      Response t 0 1 0 (bitsGet (fieldLo g.2.2) (fieldWidth g.2.2) img.toNat)

/-- The FSET commands and FTRIG.OS. -/
def Obligations.FsetCommandsRespond : Prop :=
  (∀ g ∈ imageSetters, ∀ (img : Pair) (v : BitVec 16) (s : State),
    decode (g.1 ++ (v ++ img)) = .ok (g.2.1 img v) ∧
    ∃ t, exec (g.2.1 img v) s = .next t ∧ OnlyResponse s t ∧
      Response t 0 1 0 (bitsSet (fieldLo g.2.2) (fieldWidth g.2.2) img.toNat v.toNat)) ∧
  (∀ (img : Pair) (x : BitVec 16) (s : State),
    decode (0x24#8 ++ (x ++ img)) = .ok (.ftrigOs img) ∧
    ∃ t, exec (.ftrigOs img) s = .next t ∧ OnlyResponse s t ∧ Response t 0 1 0 (bitsSet 15 1 img.toNat 1))

/-- The laws of the field getter and setter (the spec derives them: R100). -/
def Obligations.FieldLaws : Prop :=
  ∀ (img : Pair) (f : CfgField) (v u : BitVec 32),
    fieldGet (fieldSet img f v) f = v.setWidth 8 &&& fieldWmask f ∧
    (∀ g, g ≠ f → fieldGet (fieldSet img f v) g = fieldGet img g) ∧
    (fieldSet img f v &&& 0x600F#16) = (img &&& 0x600F#16) ∧
    fieldSet (fieldSet img f u) f v = fieldSet img f v ∧
    fieldSet img f ((fieldGet img f).setWidth 32) = img ∧
    (∀ g, g ≠ f → fieldSet (fieldSet img f v) g u = fieldSet (fieldSet img g u) f v)

/-! ### The sequenced commands. Their failure clauses leave out `H.phase`, `H.cfg` and `H.data` (log entry 6). -/

/-- RD.TEMP, RD.TLOW and RD.THIGH. -/
def Obligations.RdCommandsComplete : Prop :=
  ∀ g ∈ countReaders, ∀ (x : BitVec 32) (s : State),
    decode (g.1 ++ x) = .ok g.2.1 ∧
    (Answered 2 s → ∃ t, exec g.2.1 s = .next t ∧ TwoReadFrame s t g.2.2 ∧
      CountResponse t (seenSecond s g.2.2).toNat (bitsGet 4 1 (seenNow s .configuration).toNat == 1)) ∧
    TfailFirst g.2.1 s ∧ TfailSecond g.2.1 s

/-- WR.TLOW and WR.THIGH. -/
def Obligations.WrCommandsComplete : Prop :=
  ∀ g ∈ thresholdWriters, ∀ (c : Int) (s : State), isCelsiusIn c = true → Memory.wf s.mem = true →
    decode (g.1 ++ BitVec.ofInt 32 c) = .ok (g.2.1 c) ∧
    (Answered 2 s → ∃ t, exec (g.2.1 c) s = .next t ∧ Response t 0 1 0 0 ∧
      ReadWriteFrame s t g.2.2 (pairNat (rawOf c) (bitsGet 4 1 (seenNow s .configuration).toNat == 1))) ∧
    TfailFirst (g.2.1 c) s ∧ TfailSecond (g.2.1 c) s

/-- The CGET commands. -/
def Obligations.CgetCommandsComplete : Prop :=
  ∀ g ∈ sensorGetters, ∀ (x : BitVec 32) (s : State),
    decode (g.1 ++ x) = .ok g.2.1 ∧
    (Answered 1 s → ∃ t, exec g.2.1 s = .next t ∧ OneReadFrame s t ∧
      Response t 0 1 0 (bitsGet (fieldLo g.2.2) (fieldWidth g.2.2) (seenNow s .configuration).toNat)) ∧
    TfailFirst g.2.1 s

/-- The CSET commands. -/
def Obligations.CsetCommandsComplete : Prop :=
  ∀ g ∈ sensorSetters, ∀ (v : BitVec 32) (s : State), Memory.wf s.mem = true →
    decode (g.1 ++ v) = .ok (g.2.1 v) ∧
    (Answered 2 s → ∃ t, exec (g.2.1 v) s = .next t ∧ Response t 0 1 0 0 ∧
      ReadWriteFrame s t .configuration
        (bitsSet (fieldLo g.2.2) (fieldWidth g.2.2) (seenNow s .configuration).toNat v.toNat)) ∧
    TfailFirst (g.2.1 v) s ∧ TfailSecond (g.2.1 v) s

/-- OS.TRIG. -/
def Obligations.OsTrigCompletes : Prop :=
  ∀ (x : BitVec 32) (s : State), Memory.wf s.mem = true →
    decode (0x74#8 ++ x) = .ok .osTrig ∧
    (Answered 2 s → ∃ t, exec .osTrig s = .next t ∧ Response t 0 1 0 0 ∧
      ReadWriteFrame s t .configuration (bitsSet 15 1 (seenNow s .configuration).toNat 1)) ∧
    TfailFirst .osTrig s ∧ TfailSecond .osTrig s

/-- A failed transaction ends every sequenced command with TFAIL: the transport's code, the register and the direction; no later
request is made and nothing done before is undone. -/
def Obligations.TransportFailureEndsCommand : Prop :=
  ∀ (i : Instr) (s : State), (Sequenced i → TfailFirst i s) ∧ TfailSecond i s

/-- What a failed transaction leaves in the hold registers: `H.phase` counts the successful transactions only, and a failed read writes
neither `H.cfg` nor `H.data`. The model's reading of rule R13 (DEDUCED, log entry 6). -/
def Obligations.FailureKeepsHoldRegisters : Prop :=
  ∀ (i : Instr) (s : State) (e : Byte) (l : Bool),
    (Sequenced i → (s.turnAt 0).reply = .fail e l →
      ∃ t, exec i s = .next t ∧ t.phase = s.phase ∧ t.cfg = s.cfg ∧ t.data = s.data) ∧
    (∀ q, requestAt i 1#2 (seenNow s .configuration) = some q →
      (s.turnAt 0).reply = .ok → (s.turnAt 1).reply = .fail e l →
      ∃ t, exec i s = .next t ∧ t.phase = s.phase + 1#2 ∧ t.cfg = seenNow s .configuration ∧ t.data = s.data)

/-- The registers touched, in order, by every command of the map, when the transport answers with success (the spec derives the list:
R27). -/
def Obligations.TransactionsInOrder : Prop :=
  ∀ r ∈ opTable, ∀ (arg : BitVec 32) (s : State), Answered 2 s →
    ∃ i t, decode (r.op ++ arg) = .ok i ∧ exec i s = .next t ∧ t.rspPending = true ∧
      ∃ l : List Txn, t.bus = s.bus ++ l ∧ (∀ x ∈ l, x.dev = s.devAddr) ∧
        l.map (fun x => (reqIsWrite x.req, reqReg x.req)) = r.transport

/-- With the simple-storage sensor (decision D28) a threshold written is the threshold read back, where the mode can hold it. -/
def Obligations.ThresholdReadsBack : Prop :=
  ∀ (c : Int) (s : State), Memory.wf s.mem = true → Quiet 4 s →
    ((seenNow s .configuration).getLsbD 4 = true ∨ rawOf c ≤ 2047) →
    (∃ t u, exec (.wrTlow c) s = .next t ∧ exec .rdTlow t = .next u ∧ Response u 0 1 0 (twosOf 32 (rawOf c))) ∧
    (∃ t u, exec (.wrThigh c) s = .next t ∧ exec .rdThigh t = .next u ∧ Response u 0 1 0 (twosOf 32 (rawOf c)))

/-- With the simple-storage sensor (decision D28) a field set is the field got, wrapped to its width, and every other getter answers as
before; after OS.TRIG the One-shot field is got as 1. -/
def Obligations.FieldReadsBack : Prop :=
  ∀ h ∈ sensorGetters, ∀ s : State, Memory.wf s.mem = true → Quiet 3 s →
    (∀ g ∈ sensorSetters, ∀ v : BitVec 32,
      ∃ t u, exec (g.2.1 v) s = .next t ∧ exec h.2.1 t = .next u ∧
        Response u 0 1 0 (if h.2.2 = g.2.2 then v.toNat % 2 ^ fieldWidth h.2.2
          else bitsGet (fieldLo h.2.2) (fieldWidth h.2.2) (seenNow s .configuration).toNat)) ∧
    (∃ t u, exec .osTrig s = .next t ∧ exec h.2.1 t = .next u ∧
      Response u 0 1 0 (if h.2.2 = .os then 1
        else bitsGet (fieldLo h.2.2) (fieldWidth h.2.2) (seenNow s .configuration).toNat))

/-- The lost update: what another master writes between the read and the write of a CSET or OS.TRIG command is gone after it. -/
def Obligations.LostUpdate : Prop :=
  ∀ (s : State) (p : Pair), Memory.wf s.mem = true →
    (s.turnAt 0).reply = .ok → s.turnAt 1 = ⟨[⟨.configuration, p⟩], .ok⟩ →
    (∀ g ∈ sensorSetters, ∀ v : BitVec 32,
      ∃ t, exec (g.2.1 v) s = .next t ∧
        (readPair t.mem s.devAddr .configuration).toNat =
          bitsSet (fieldLo g.2.2) (fieldWidth g.2.2) (seenNow s .configuration).toNat v.toNat) ∧
    (∃ t, exec .osTrig s = .next t ∧
      (readPair t.mem s.devAddr .configuration).toNat = bitsSet 15 1 (seenNow s .configuration).toNat 1)

/-- A mode change does not re-encode the thresholds: each keeps its pattern, which is then read in the new mode (the spec derives it:
R176; with the simple-storage sensor of decision D28). -/
def Obligations.ModeChangeKeepsThresholds : Prop :=
  ∀ (v : BitVec 32) (s : State), Memory.wf s.mem = true → Quiet 4 s →
    ∃ t, exec (.csetEm v) s = .next t ∧
      (∀ r, r ≠ .configuration → readPair t.mem s.devAddr r = readPair s.mem s.devAddr r) ∧
      (∃ u, exec .rdTlow t = .next u ∧
        CountResponse u (readPair s.mem s.devAddr .tLow).toNat (v.toNat % 2 == 1)) ∧
      (∃ u, exec .rdThigh t = .next u ∧
        CountResponse u (readPair s.mem s.devAddr .tHigh).toNat (v.toNat % 2 == 1))

/-- The pseudo-commands: the four aliases, and the second command of the Fahrenheit reads, which carries `data[15:0]` and `present` of the
first response and is issued only if that response is OK. -/
def Obligations.PseudoCommandsExpand : Prop :=
  pseudoFirst .sleep = .csetSd 1#32 ∧ pseudoFirst .wake = .csetSd 0#32 ∧
  pseudoFirst .osStatus = .cgetOs ∧ pseudoFirst .alert = .cgetAl ∧
  pseudoFirst .rdTempF = .rdTemp ∧ pseudoFirst .rdTlowF = .rdTlow ∧ pseudoFirst .rdThighF = .rdThigh ∧
  (∀ p ∈ [Pseudo.sleep, .wake, .osStatus, .alert], ∀ r, pseudoSecond p r = none) ∧
  (∀ g ∈ fahrenheitReads, ∀ r : Rsp,
    (r.status = .ok → pseudoSecond g.1 r = some (.c2f r.present (signedOf 16 (r.data.toNat % 65536)))) ∧
    (r.status ≠ .ok → pseudoSecond g.1 r = none))

/-- RD.TEMP.F, RD.TLOW.F and RD.THIGH.F: the host carries the count of the read to C2F. -/
def Obligations.FahrenheitReadComposes : Prop :=
  ∀ g ∈ fahrenheitReads, ∀ s : State, Answered 2 s →
    ∃ t r j u, exec (pseudoFirst g.1) s = .next t ∧ readRsp t.rsp = some r ∧
      pseudoSecond g.1 r = some j ∧ exec j t = .next u ∧
      if (seenSecond s g.2).toNat = 65535 then Response u 0 0 0 0
      else Response u 0 1 0 (twosOf 32
        (9 * countOf (seenSecond s g.2).toNat (bitsGet 4 1 (seenNow s .configuration).toNat == 1) + 2560))

/-- A Fahrenheit read whose first command fails, at either transaction, has no second command. -/
def Obligations.FahrenheitReadStopsOnFailure : Prop :=
  ∀ g ∈ fahrenheitReads, ∀ (s : State) (e : Byte) (l : Bool),
    ((s.turnAt 0).reply = .fail e l ∨ (s.turnAt 0).reply = .ok ∧ (s.turnAt 1).reply = .fail e l) →
    ∃ t r, exec (pseudoFirst g.1) s = .next t ∧ t.rspPending = true ∧ readRsp t.rsp = some r ∧
      r.status = .tfail ∧ r.err = e ∧ pseudoSecond g.1 r = none

/-! ### Steps -/

/-- An idle block runs the command presented: the step is exec of the decoded instruction on the accepted state. That one step runs the
whole command is the model's choice (log entry 9). -/
def Obligations.StepRunsDecoded : Prop :=
  ∀ (s : State) (w : CmdWord) (ws : List CmdWord) (i : Instr), Idle s → rstHighAt s 0 = false → s.cmds = w :: ws →
    decode w = .ok i →
    step s = exec i { s with cmds := ws, rst := s.rst.tail, busy := true, op := opOf w, arg := argOf w, phase := 0#2 }

/-- A reserved code ends ILLEGAL, with no transaction and nothing else changed. -/
def Obligations.ReservedCodeIsIllegal : Prop :=
  ∀ (s : State) (w : CmdWord) (ws : List CmdWord), Idle s → rstHighAt s 0 = false → s.cmds = w :: ws →
    (∀ r ∈ opTable, r.op ≠ opOf w) →
    ∃ t, step s = .next t ∧ Response t 2 0 0 0 ∧
      t = { s with
        cmds := ws, rst := s.rst.tail, busy := true, op := opOf w, arg := argOf w, phase := 0#2
        rsp := t.rsp, rspPending := true }

/-- A busy block starts nothing and drops nothing. That the hold registers keep their values also when the step takes the response is the
model's reading (DEDUCED, log entry 22). -/
def Obligations.BusyBlockAcceptsNothing : Prop :=
  ∀ s t : State, rstHighAt s 0 = false → s.busy = true → step s = .next t →
    t.cmds = s.cmds ∧ t.op = s.op ∧ t.arg = s.arg ∧ t.phase = s.phase ∧ t.rsp = s.rsp ∧
      t.bus = s.bus ∧ t.mem = s.mem ∧ t.turns = s.turns

/-- A taken response, whatever its status, leaves the block idle for the next command. That the hold registers keep their values then is
the model's reading (DEDUCED, log entry 22). -/
def Obligations.TakenResponseReleasesBlock : Prop :=
  ∀ (s : State) (st : Status) (present : Bool) (err : Byte) (data : BitVec 32),
    rstHighAt s 0 = false → s.reqTaken = false → s.rspReady = true →
    Response s (statusCode st).toNat present.toNat err.toNat data.toNat →
    ∃ t, step s = .next t ∧ Idle t ∧
      t = { s with rst := s.rst.tail, busy := false, rspPending := false, taken := s.taken ++ [⟨st, present, err, data⟩] }

/-- Every command accepted gets one response when the transport answers and the host takes it: two steps, one response. -/
def Obligations.OneResponsePerCommand : Prop :=
  ∀ (s : State) (w : CmdWord) (ws : List CmdWord), Idle s → (∀ k < 2, rstHighAt s k = false) →
    s.cmds = w :: ws → s.rspReady = true →
    (∀ j < 2, (s.turnAt j).reply = .ok ∨ ∃ e l, (s.turnAt j).reply = .fail e l) →
    ∃ t u r, step s = .next t ∧ t.busy = true ∧ t.rspPending = true ∧ t.taken = s.taken ∧ readRsp t.rsp = some r ∧
      step t = .next u ∧ Idle u ∧ u.cmds = ws ∧ u.taken = s.taken ++ [r]

/-- Nothing survives from one command to the next: what a command answers and does on the transport depends on its word and on the outside
alone. -/
def Obligations.CommandsAreStateless : Prop :=
  ∀ (s₁ s₂ : State) (w : CmdWord) (ws₁ ws₂ : List CmdWord), Idle s₁ → Idle s₂ →
    rstHighAt s₁ 0 = false → rstHighAt s₂ 0 = false →
    s₁.cmds = w :: ws₁ → s₂.cmds = w :: ws₂ →
    s₁.devAddr = s₂.devAddr → s₁.mem = s₂.mem → s₁.turns = s₂.turns → s₁.freeNo = s₂.freeNo →
    ∃ t₁ t₂ l, step s₁ = .next t₁ ∧ step s₂ = .next t₂ ∧
      t₁.rspPending = t₂.rspPending ∧ (t₁.rspPending = true → t₁.rsp = t₂.rsp) ∧
      t₁.busy = t₂.busy ∧ t₁.mem = t₂.mem ∧ t₁.turns = t₂.turns ∧
      t₁.bus = s₁.bus ++ l ∧ t₂.bus = s₂.bus ++ l

/-- No step makes more than two transactions, and none writes the Temperature register or leaves the device. -/
def Obligations.TransactionsAreBounded : Prop :=
  ∀ s t : State, step s = .next t →
    t.devAddr = s.devAddr ∧
    ∃ l : List Txn, t.bus = s.bus ++ l ∧ l.length ≤ 2 ∧
      ∀ x ∈ l, x.dev = s.devAddr ∧ ∀ p, x.req ≠ .write .temperature p

/-- A transport that never answers the first or the second request, and a host that never takes the response, leave the block waiting
for ever: a step that changes nothing (DESIGN CHOICE, log entry 8). -/
def Obligations.UnansweredCommandWaits : Prop :=
  ∀ s : State, s.rst = [] →
    (∀ (i : Instr) (c : Cut), s.busy = true → s.rspPending = false → Sequenced i →
      (s.turnAt 0).reply = .silent c → Waits i s) ∧
    (∀ (i : Instr) (q : Req) (c : Cut), s.busy = true → s.rspPending = false →
      requestAt i 1#2 (seenNow s .configuration) = some q →
      (s.turnAt 0).reply = .ok → (s.turnAt 1).reply = .silent c → Waits i s) ∧
    (s.rspPending = true → s.rspReady = false → step s = .next s)

/-! ### Reset -/

/-- While `rst` is high a step takes the block to the reset state, and not the sensor, the transport or the host. -/
def Obligations.ResetStep : Prop :=
  ∀ s : State, rstHighAt s 0 = true →
    ∃ t, step s = .next t ∧ t.busy = false ∧ t.phase = 0#2 ∧ t.rspPending = false ∧ t.reqTaken = false ∧
      t.rst = s.rst.tail ∧ t.devAddr = s.devAddr ∧ t.mem = s.mem ∧ t.bus = s.bus ∧ t.turns = s.turns ∧
      t.cmds = s.cmds ∧ t.rspReady = s.rspReady ∧ t.taken = s.taken

/-- What the model's reset state holds. The default address, the empty memory and a `rst` line that stays low are the model's choice
(log entries 12, 3 and 4). -/
def Obligations.ResetState : Prop :=
  State.reset.busy = false ∧ State.reset.phase = 0#2 ∧ State.reset.rspPending = false ∧
  State.reset.devAddr = .x48 ∧ State.reset.mem = [] ∧ Idle State.reset ∧ State.reset.rst = []

/-- Reset during a command's first or second transaction: no response, the block in the reset state, no further request. A request
withdrawn before the transport took it leaves the sensor as it was; so does a read; a write taken has landed or not. -/
def Obligations.ResetCutsCommandOff : Prop :=
  ∀ (i : Instr) (s : State) (c : Cut),
    (Sequenced i → (s.turnAt 0).reply = .reset c →
      ∃ t, exec i s = .next t ∧ CutOff s t ∧ t.mem = memBefore s ∧
        t.bus = s.bus ++ if c = .withdrawn then [] else [⟨s.devAddr, .read .configuration⟩]) ∧
    (∀ q, requestAt i 1#2 (seenNow s .configuration) = some q →
      (s.turnAt 0).reply = .ok → (s.turnAt 1).reply = .reset c →
      ∃ t, exec i s = .next t ∧ CutOff s t ∧
        t.mem = (if c = .taken true then storeReq q s.devAddr (memAtSecond s) else memAtSecond s) ∧
        t.bus = s.bus ++ [⟨s.devAddr, .read .configuration⟩] ++ if c = .withdrawn then [] else [⟨s.devAddr, q⟩])

/-! ### The invariant -/

/-- Every step from a sound state gives a sound state. The canonical memory and the record of requests are the model's (log entries 3, 5
and 18). -/
def Obligations.StepKeepsInvariant : Prop :=
  ∀ s t : State, Sound s → step s = .next t → Sound t

/-- The reset state is sound; its clauses on memory and the record of requests are the model's (log entries 3, 5 and 18). -/
def Obligations.ResetIsSound : Prop := Sound State.reset

/-- From a sound state the machine never stops: fault and refusal are excluded, and no more. It is no progress: where the spec says stuck
(U8) the model's step changes nothing (DESIGN CHOICE, log entry 8). -/
def Obligations.SoundStateNeverStops : Prop :=
  ∀ s : State, Sound s → ∃ t, step s = .next t

/-! ### The clocked block -/

/-- The block driven edge by edge by a prompt host and transport reaches exactly the state the step gives; how many edges pass is the
model's choice (log entry 17). -/
def Obligations.ClockedBlockRefinesStep : Prop :=
  ∀ (s : State) (w : CmdWord) (ws : List CmdWord), Idle s → s.rst = [] → s.cmds = w :: ws →
    (∀ j < 2, ∀ c, (s.turnAt j).reply ≠ .silent c) →
    ∃ n ≤ 6, step s = .next (systemEdge^[n] s)

/-- At an edge with `rst` high the block is reset, and then idle at its ports. -/
def Obligations.ClockedReset : Prop :=
  ∀ (x : PortsIn) (s : State), x.rst = true →
    (portsOut (clockEdge x s)).cmdReady = true ∧ (portsOut (clockEdge x s)).rspValid = false ∧
    (portsOut (clockEdge x s)).tReqValid = false ∧ (portsOut (clockEdge x s)).tRspReady = false ∧
    (clockEdge x s).phase = 0#2 ∧ (clockEdge x s).mem = s.mem

/-- A presented response or request is held unchanged until its transfer, unless reset withdraws it. That the ports of the other channels,
which rule R19 leaves open while they are not valid, stay too is the model's (log entries 10 and 23). -/
def Obligations.PresentedWordsAreHeld : Prop :=
  ∀ (x : PortsIn) (s : State), x.rst = false →
    ((portsOut s).rspValid = true → x.rspReady = false → portsOut (clockEdge x s) = portsOut s) ∧
    ((portsOut s).tReqValid = true → x.tReqReady = false → portsOut (clockEdge x s) = portsOut s)

/-- The command and the transport's answer are sampled only at their transfer edges. -/
def Obligations.PayloadsSampledAtTransfer : Prop :=
  ∀ (x : PortsIn) (s : State) (op : BitVec 8) (arg : BitVec 32) (f : Bool) (e : Byte) (d : Pair),
    ((portsOut s).cmdReady = false ∨ x.cmdValid = false →
      clockEdge { x with cmdOp := op, cmdArg := arg } s = clockEdge x s) ∧
    ((portsOut s).tRspReady = false ∨ x.tRspValid = false →
      clockEdge { x with tRspFail := f, tRspErr := e, tRspRdata := d } s = clockEdge x s)
end

