-- ==== Sys2Proof/Laws/Words.lean ====
section
/-! SUPPORT. Words and their parts: pairs, command words, argument formats and response words. -/

namespace Sys2Proof

theorem isCelsiusIn_iff (c : Int) : isCelsiusIn c = true ↔ -2147483648 ≤ c ∧ c ≤ 2147483647 := by
  simp [isCelsiusIn]

theorem isCount_iff (n : Int) : isCount n = true ↔ -32768 ≤ n ∧ n ≤ 32767 := by
  simp [isCount]

/-- Every argument holds a CelsiusIn (rule R45). -/
theorem isCelsiusIn_argCelsius (arg : BitVec 32) : isCelsiusIn (argCelsius arg) = true := by
  have h1 := BitVec.le_toInt arg
  have h2 := BitVec.toInt_lt (x := arg)
  rw [isCelsiusIn_iff, argCelsius]; norm_num at h1 h2; omega

/-- Every argument holds a count (rule R45). -/
theorem isCount_argCount (arg : BitVec 32) : isCount (argCount arg) = true := by
  have h1 := BitVec.le_toInt (arg.extractLsb' 0 16)
  have h2 := BitVec.toInt_lt (x := arg.extractLsb' 0 16)
  rw [isCount_iff, argCount]; omega

@[simp] theorem opOf_append (op : BitVec 8) (arg : BitVec 32) : opOf (op ++ arg) = op :=
  BitVec.extractLsb'_append_eq_left

@[simp] theorem argOf_append (op : BitVec 8) (arg : BitVec 32) : argOf (op ++ arg) = arg :=
  BitVec.extractLsb'_append_eq_right

/-- A command word is its operation code and its argument (rule R40). -/
@[simp] theorem opOf_append_argOf (w : CmdWord) : opOf w ++ argOf w = w := by
  have h := BitVec.extractLsb'_append_extractLsb'_eq_extractLsb' (x := w) (start₂ := 32) (start₁ := 0) (len₁ := 32)
    (len₂ := 8) rfl
  simpa [opOf, argOf] using h

@[simp] theorem opOf_encode (i : Instr) : opOf (encode i) = i.opCode := opOf_append _ _

@[simp] theorem argOf_encode (i : Instr) : argOf (encode i) = i.argBits := argOf_append _ _

theorem getLsbD_putPair (a b : Byte) (i : Nat) :
    (putPair a b).getLsbD i = if i < 8 then b.getLsbD i else if i < 16 then a.getLsbD (i - 8) else false := by
  have h1 : (putPair a b).getLsbD i = if i < 8 then b.getLsbD i else (0#16 ++ a).getLsbD (i - 8) :=
    BitVec.getLsbD_append
  have h2 : (0#16 ++ a).getLsbD (i - 8) = if i - 8 < 8 then a.getLsbD (i - 8) else (0#16).getLsbD (i - 8 - 8) :=
    BitVec.getLsbD_append
  rw [h1, h2]
  by_cases h : i < 8
  · simp [h]
  · by_cases h' : i < 16
    · simp [h, h', show i - 8 < 8 by omega]
    · simp [h, h', show ¬ i - 8 < 8 by omega]

@[simp] theorem argByte0_putPair (a b : Byte) : argByte0 (putPair a b) = a := by
  apply BitVec.eq_of_getLsbD_eq
  intro i hi
  simp [argByte0, getLsbD_putPair, hi, show 8 + i < 16 by omega]

@[simp] theorem argByte1_putPair (a b : Byte) : argByte1 (putPair a b) = b := BitVec.extractLsb'_append_eq_right

@[simp] theorem argImage_putImage (img : Pair) : argImage (putImage img) = img := BitVec.extractLsb'_append_eq_right

@[simp] theorem argImage_putImageValue (img : Pair) (v : BitVec 16) : argImage (putImageValue img v) = img :=
  BitVec.extractLsb'_append_eq_right

@[simp] theorem argImageValue_putImageValue (img : Pair) (v : BitVec 16) : argImageValue (putImageValue img v) = v :=
  BitVec.extractLsb'_append_eq_left

theorem argCelsius_putCelsius (c : Int) (h : isCelsiusIn c = true) : argCelsius (putCelsius c) = c := by
  rw [isCelsiusIn_iff] at h
  exact BitVec.toInt_ofInt_eq_self (by decide) (by norm_num; omega) (by norm_num; omega)

theorem argCount_putCount (pin : Bool) (n : Int) (h : isCount n = true) : argCount (putCount pin n) = n := by
  rw [isCount_iff] at h
  have h1 : (putCount pin n).extractLsb' 0 16 = BitVec.ofInt 16 n := BitVec.extractLsb'_append_eq_right
  rw [argCount, h1]
  exact BitVec.toInt_ofInt_eq_self (by decide) (by norm_num; omega) (by norm_num; omega)

@[simp] theorem argPresent_putCount (pin : Bool) (n : Int) : argPresent (putCount pin n) = pin := by
  have h1 : (putCount pin n).getLsbD 16 =
      if 16 < 16 then (BitVec.ofInt 16 n).getLsbD 16 else (0#15 ++ BitVec.ofBool pin).getLsbD (16 - 16) :=
    BitVec.getLsbD_append
  rw [argPresent, h1]
  cases pin <;> rfl

/-! ### The argument a format puts back: the ignored bits of rule R42 cleared, every other bit kept -/

@[simp] theorem putCelsius_argCelsius (arg : BitVec 32) : putCelsius (argCelsius arg) = arg := by
  simp [putCelsius, argCelsius]

@[simp] theorem putImageValue_args (arg : BitVec 32) : putImageValue (argImage arg) (argImageValue arg) = arg := by
  have h := BitVec.extractLsb'_append_extractLsb'_eq_extractLsb' (x := arg) (start₂ := 16) (start₁ := 0) (len₁ := 16)
    (len₂ := 16) rfl
  simpa [putImageValue, argImage, argImageValue] using h

theorem putPair_args (arg : BitVec 32) :
    putPair (argByte0 arg) (argByte1 arg) = arg &&& ~~~0xFFFF0000#32 := by
  apply BitVec.eq_of_getLsbD_eq
  intro i hi
  have hm : (~~~0xFFFF0000#32).getLsbD i = decide (i < 16) := by interval_cases i <;> rfl
  rw [BitVec.getLsbD_and, hm, getLsbD_putPair]
  by_cases h : i < 8
  · simp [h, argByte1, show i < 16 by omega]
  · by_cases h' : i < 16
    · simp [h, h', argByte0, show i - 8 < 8 by omega, show 8 + (i - 8) = i by omega]
    · simp [h, h']

theorem putImage_argImage (arg : BitVec 32) : putImage (argImage arg) = arg &&& ~~~0xFFFF0000#32 := by
  apply BitVec.eq_of_getLsbD_eq
  intro i hi
  have hm : (~~~0xFFFF0000#32).getLsbD i = decide (i < 16) := by interval_cases i <;> rfl
  have h1 : (putImage (argImage arg)).getLsbD i =
      if i < 16 then (argImage arg).getLsbD i else (0#16).getLsbD (i - 16) := BitVec.getLsbD_append
  rw [BitVec.getLsbD_and, hm, h1]
  by_cases h : i < 16 <;> simp [h, argImage]

theorem putCount_args (arg : BitVec 32) :
    putCount (argPresent arg) (argCount arg) = arg &&& ~~~0xFFFE0000#32 := by
  apply BitVec.eq_of_getLsbD_eq
  intro i hi
  have hm : (~~~0xFFFE0000#32).getLsbD i = decide (i < 17) := by interval_cases i <;> rfl
  have h1 : (putCount (argPresent arg) (argCount arg)).getLsbD i = if i < 16 then
      (BitVec.ofInt 16 (argCount arg)).getLsbD i else (0#15 ++ BitVec.ofBool (argPresent arg)).getLsbD (i - 16) :=
    BitVec.getLsbD_append
  have h2 : (0#15 ++ BitVec.ofBool (argPresent arg)).getLsbD (i - 16) = if i - 16 < 1 then
      (BitVec.ofBool (argPresent arg)).getLsbD (i - 16) else (0#15).getLsbD (i - 16 - 1) := BitVec.getLsbD_append
  rw [BitVec.getLsbD_and, hm, h1, h2, argCount, BitVec.ofInt_toInt]
  by_cases h : i < 16
  · simp [h, show i < 17 by omega]
  · by_cases h' : i = 16
    · subst h'; simp [argPresent]
    · simp [h, show ¬ i - 16 < 1 by omega, show ¬ i < 17 by omega]

namespace Machine

theorem getLsbD_pairOf (a b : Byte) (i : Nat) :
    (pairOf a b).getLsbD i = if i < 8 then b.getLsbD i else a.getLsbD (i - 8) :=
  BitVec.getLsbD_append

@[simp] theorem byte0_pairOf (a b : Byte) : byte0 (pairOf a b) = a := BitVec.extractLsb'_append_eq_left

@[simp] theorem byte1_pairOf (a b : Byte) : byte1 (pairOf a b) = b := BitVec.extractLsb'_append_eq_right

@[simp] theorem pairOf_bytes (p : Pair) : pairOf (byte0 p) (byte1 p) = p := by
  have h := BitVec.extractLsb'_append_extractLsb'_eq_extractLsb' (x := p) (start₂ := 8) (start₁ := 0) (len₁ := 8)
    (len₂ := 8) rfl
  simpa [byte0, byte1, pairOf] using h

theorem toNat_byte0 (p : Pair) : (byte0 p).toNat = p.toNat / 256 := by
  have := p.isLt
  simp [byte0, BitVec.extractLsb'_toNat, Nat.shiftRight_eq_div_pow]; omega

theorem toNat_byte1 (p : Pair) : (byte1 p).toNat = p.toNat % 256 := by
  simp [byte1, BitVec.extractLsb'_toNat]

theorem toNat_pairOf (a b : Byte) : (pairOf a b).toNat = a.toNat * 256 + b.toNat := by
  have h0 := toNat_byte0 (pairOf a b)
  have h1 := toNat_byte1 (pairOf a b)
  simp at h0 h1; omega

/-- The sentinel is the one pair `0xFFFF` (rule R60). -/
theorem isSentinel_iff (p : Pair) : isSentinel p = true ↔ p = 0xFFFF#16 := by
  constructor
  · intro h
    simp [isSentinel] at h
    rw [← pairOf_bytes p, h.1, h.2]; rfl
  · rintro rfl; rfl

/-! ### Response words -/

@[simp] theorem statusOf_statusCode (st : Status) : statusOf (statusCode st) = some st := by cases st <;> rfl

@[simp] theorem rspWord_data (r : Rsp) : (rspWord r).extractLsb' 0 32 = r.data := BitVec.extractLsb'_append_eq_right

theorem getLsbD_rspWord (r : Rsp) (i : Nat) : (rspWord r).getLsbD i =
    if i < 32 then r.data.getLsbD i else if i < 40 then r.err.getLsbD (i - 32)
    else if i < 41 then r.present && decide (i = 40) else (statusCode r.status).getLsbD (i - 41) := by
  have h1 : (rspWord r).getLsbD i = if i < 32 then r.data.getLsbD i
      else (statusCode r.status ++ BitVec.ofBool r.present ++ r.err).getLsbD (i - 32) := BitVec.getLsbD_append
  have h2 : (statusCode r.status ++ BitVec.ofBool r.present ++ r.err).getLsbD (i - 32) = if i - 32 < 8 then
      r.err.getLsbD (i - 32) else (statusCode r.status ++ BitVec.ofBool r.present).getLsbD (i - 32 - 8) :=
    BitVec.getLsbD_append
  have h3 : (statusCode r.status ++ BitVec.ofBool r.present).getLsbD (i - 32 - 8) = if i - 32 - 8 < 1 then
      (BitVec.ofBool r.present).getLsbD (i - 32 - 8) else (statusCode r.status).getLsbD (i - 32 - 8 - 1) :=
    BitVec.getLsbD_append
  rw [h1, h2, h3]
  by_cases a : i < 32
  · simp [a]
  · by_cases b : i < 40
    · simp [a, b, show i - 32 < 8 by omega]
    · by_cases c : i < 41
      · have : i = 40 := by omega
        subst this; cases r.present <;> simp
      · simp [a, b, c, show ¬ i - 32 < 8 by omega, show ¬ i - 32 - 8 < 1 by omega,
          show i - 32 - 8 - 1 = i - 41 by omega]

@[simp] theorem rspWord_err (r : Rsp) : (rspWord r).extractLsb' 32 8 = r.err := by
  apply BitVec.eq_of_getLsbD_eq
  intro i hi
  simp [getLsbD_rspWord, hi, show ¬ 32 + i < 32 by omega, show 32 + i < 40 by omega]

@[simp] theorem rspWord_present (r : Rsp) : (rspWord r)[40] = r.present := by
  have h := getLsbD_rspWord r 40
  rw [BitVec.getLsbD_eq_getElem (by decide)] at h
  simpa using h

@[simp] theorem rspWord_status (r : Rsp) : (rspWord r).extractLsb' 41 2 = statusCode r.status := by
  apply BitVec.eq_of_getLsbD_eq
  intro i hi
  simp [getLsbD_rspWord, hi, show ¬ 41 + i < 32 by omega, show ¬ 41 + i < 40 by omega]

/-- The response word as a number (rule R41). -/
theorem toNat_rspWord (r : Rsp) : (rspWord r).toNat =
    (statusCode r.status).toNat * 2 ^ 41 + r.present.toNat * 2 ^ 40 + r.err.toNat * 2 ^ 32 + r.data.toNat := by
  have h0 := congrArg BitVec.toNat (rspWord_data r)
  have h1 := congrArg BitVec.toNat (rspWord_err r)
  have h2 := congrArg BitVec.toNat (rspWord_status r)
  have h3 : (rspWord r).extractLsb' 40 1 = BitVec.ofBool r.present := by
    apply BitVec.eq_of_getLsbD_eq
    intro i hi
    obtain rfl : i = 0 := by omega
    simp
  have h3 := congrArg BitVec.toNat h3
  have := (rspWord r).isLt
  rw [BitVec.extractLsb'_toNat, Nat.shiftRight_eq_div_pow] at h0 h1 h2 h3
  simp only [BitVec.toNat_ofBool] at h3
  omega

/-- The host reads back the response that was made (rule R41). -/
@[simp] theorem readRsp_rspWord (r : Rsp) : readRsp (rspWord r) = some r := by
  simp [readRsp]

theorem rspLegal_tfail (e : Byte) (r : SensorReg) (w : Bool) :
    rspLegal (rspWord (rspTfail e (regAddr r) w)) = true := by
  simp only [rspLegal, readRsp_rspWord, rspTfail]
  cases r <;> cases w <;> rfl

theorem rspLegal_illegal : rspLegal (rspWord rspIllegal) = true := by decide

theorem rspLegal_present (data : BitVec 32) : rspLegal (rspWord (rspOk true data)) = true := by
  simp [rspLegal, rspOk]

theorem rspLegal_dCnt (n : Option Count) : rspLegal (rspWord (dCnt n)) = true := by
  cases n <;> simp [rspLegal, dCnt, rspOk]

theorem rspLegal_dFah (pin : Bool) (n : Int) : rspLegal (rspWord (dFah pin n)) = true := by
  cases pin <;> simp [rspLegal, dFah, rspOk]

end Machine

end Sys2Proof
end

