-- ==== Sys2Proof/Laws/Codec.lean ====
section
/-! SUPPORT. The shared functions of the codec beside the integer reading of their rules. -/

namespace Sys2Proof.Machine

/-! ### Responses -/

theorem response_respond (r : Rsp) (s : State) :
    Response (respond r s) (statusCode r.status).toNat r.present.toNat r.err.toNat r.data.toNat :=
  ⟨rfl, toNat_rspWord r⟩

/-- The two's-complement pattern of a bit vector's integer is the bit vector. -/
theorem twosOf_toInt {w : Nat} (b : BitVec w) : twosOf w b.toInt = b.toNat := by
  have h : ((BitVec.ofInt w b.toInt).toNat : Int) = b.toInt % 2 ^ w := by
    have hp : (0 : Int) < 2 ^ w := by positivity
    rw [BitVec.toNat_ofInt, Int.toNat_of_nonneg (Int.emod_nonneg _ (by push_cast; omega))]
    push_cast; rfl
  rw [BitVec.ofInt_toInt] at h
  unfold twosOf
  omega

/-- `signed_W` is the integer of the pattern. -/
theorem signedOf_toNat {w : Nat} (b : BitVec (w + 1)) : signedOf (w + 1) b.toNat = b.toInt := by
  have h : 2 ^ (w + 1) = 2 * 2 ^ w := by rw [pow_succ]; ring
  rw [BitVec.toInt_eq_toNat_cond]
  unfold signedOf
  simp only [Nat.add_sub_cancel]
  split <;> split <;> first | rfl | omega

/-! ### The decoder -/

/-- OR-ing `0xE000` is sign extension of the 13-bit field (rule R61). -/
theorem extendedPattern_eq (p : Pair) : extendedPattern p = (p.extractLsb' 3 13).signExtend 16 := by
  have hf : ((byte0 p).setWidth 13 <<< 5) ||| ((byte1 p) >>> 3).setWidth 13 = p.extractLsb' 3 13 := by
    apply BitVec.eq_of_getLsbD_eq
    intro i hi
    simp only [byte0, byte1, BitVec.getLsbD_or, BitVec.getLsbD_shiftLeft, BitVec.getLsbD_setWidth,
      BitVec.getLsbD_ushiftRight, BitVec.getLsbD_extractLsb']
    by_cases h : i < 5
    · simp [h, show 3 + i < 8 by omega, hi]
    · simp [h, hi, show i - 5 < 13 by omega, show i - 5 < 8 by omega, show 8 + (i - 5) = 3 + i by omega,
        show ¬ 3 + i < 8 by omega]
  unfold extendedPattern
  simp only [hf]
  generalize p.extractLsb' 3 13 = f
  revert f
  decide

/-- OR-ing `0xF000` is sign extension of the 12-bit field (rule R61). -/
theorem normalPattern_eq (p : Pair) : normalPattern p = (p.extractLsb' 4 12).signExtend 16 := by
  have hf : ((byte0 p).setWidth 12 <<< 4) ||| ((byte1 p) >>> 4).setWidth 12 = p.extractLsb' 4 12 := by
    apply BitVec.eq_of_getLsbD_eq
    intro i hi
    simp only [byte0, byte1, BitVec.getLsbD_or, BitVec.getLsbD_shiftLeft, BitVec.getLsbD_setWidth,
      BitVec.getLsbD_ushiftRight, BitVec.getLsbD_extractLsb']
    by_cases h : i < 4
    · simp [h, show 4 + i < 8 by omega, hi]
    · simp [h, hi, show i - 4 < 12 by omega, show i - 4 < 8 by omega, show 8 + (i - 4) = 4 + i by omega,
        show ¬ 4 + i < 8 by omega]
  unfold normalPattern
  simp only [hf]
  generalize p.extractLsb' 4 12 = f
  revert f
  decide

/-- The count of a pair that is no sentinel (rule R61). -/
theorem toInt_pattern (p : Pair) (em : Bool) :
    (if em then extendedPattern p else normalPattern p).toInt = countOf p.toNat em := by
  have hp := p.isLt
  cases em
  · simp only [normalPattern_eq, Bool.false_eq_true, if_false, countOf]
    rw [BitVec.toInt_signExtend_of_le (by decide), ← signedOf_toNat, BitVec.extractLsb'_toNat,
      Nat.shiftRight_eq_div_pow]
    congr 1; omega
  · simp only [extendedPattern_eq, if_true, countOf]
    rw [BitVec.toInt_signExtend_of_le (by decide), ← signedOf_toNat, BitVec.extractLsb'_toNat,
      Nat.shiftRight_eq_div_pow]
    congr 1; omega

/-- The response of a decoded pair (rules R42, R60, R61). -/
theorem countResponse_respond (p : Pair) (em : Bool) (s : State) :
    CountResponse (respond (dCnt (decodeTemp p em)) s) p.toNat em := by
  have hp : p.toNat = 65535 ↔ isSentinel p = true := by
    rw [isSentinel_iff]
    exact ⟨fun h => BitVec.eq_of_toNat_eq h, fun h => by rw [h]; rfl⟩
  unfold CountResponse decodeTemp
  by_cases h : isSentinel p = true
  · rw [if_pos (hp.2 h), if_pos h]
    exact response_respond _ _
  · rw [if_neg (fun hh => h (hp.1 hh)), if_neg h, ← toInt_pattern,
      ← BitVec.toInt_signExtend_of_le (v := 32) (by decide), twosOf_toInt]
    exact response_respond _ _

/-! ### The encoder -/

/-- `trunc0` is division rounded toward zero. -/
theorem trunc0_eq_tdiv (a b : Int) : trunc0 a b = a.tdiv b := by
  unfold trunc0
  split
  · rename_i h; rw [Int.tdiv_eq_ediv_of_nonneg h]
  · rename_i h
    rw [← Int.tdiv_eq_ediv_of_nonneg (by omega), Int.neg_tdiv, neg_neg]

/-- Clamp and truncation in one (rules R70, R71). -/
theorem quant_clamp_eq (c : Int) : quant (clampCelsius c) = rawOf c := by
  have h : clampCelsius c = max (-3604480) (min c 9830400) := by
    unfold clampCelsius clampInt; split
    · omega
    · split <;> omega
  rw [quant, trunc0_eq_tdiv, h, rawOf]

theorem toNat_append_zero3 (x : BitVec 5) : (x ++ 0#3).toNat = x.toNat * 8 := by revert x; decide

theorem toNat_append_zero4 (x : BitVec 4) : (x ++ 0#4).toNat = x.toNat * 16 := by revert x; decide

/-- The packed pair as a number (rule R72). -/
theorem toNat_pack (raw : Int) (em : Bool) : (pack raw em).toNat = pairNat raw em := by
  have hm : ((BitVec.ofInt 16 raw).toNat : Int) = raw % 65536 := by
    rw [BitVec.toNat_ofInt, Int.toNat_of_nonneg (Int.emod_nonneg _ (by decide))]; rfl
  cases em
  · simp only [pack, pairNat, Bool.false_eq_true, if_false]
    rw [toNat_pairOf, toNat_append_zero4]
    simp only [BitVec.extractLsb'_toNat, Nat.shiftRight_eq_div_pow, twosOf]
    omega
  · simp only [pack, pairNat, if_true]
    rw [toNat_pairOf, toNat_append_zero3]
    simp only [BitVec.extractLsb'_toNat, Nat.shiftRight_eq_div_pow, twosOf]
    omega

/-- ENCODE as a number (rules R70 to R73). -/
theorem toNat_encodeTemp (c : Int) (em : Bool) : (encodeTemp c em).toNat = pairNat (rawOf c) em := by
  rw [encodeTemp, toNat_pack, quant_clamp_eq]

/-! ### Configuration fields -/

theorem emOf_eq (img : Pair) : emOf img = (bitsGet 4 1 img.toNat == 1) := by
  rw [emOf, ← BitVec.testBit_toNat, Nat.testBit_eq_decide_div_mod_eq]
  rfl

theorem toNat_fieldByte_and (b : Byte) (f : CfgField) :
    ((b &&& (fieldRow f).mask) >>> (fieldRow f).shift).toNat =
      b.toNat / 2 ^ (fieldRow f).shift % 2 ^ fieldWidth f := by
  cases f <;> (revert b; decide)

/-- FIELD_GET reads the bits of the field's place (rules R80, R81). -/
theorem toNat_fieldGet (img : Pair) (f : CfgField) :
    (fieldGet img f).toNat = bitsGet (fieldLo f) (fieldWidth f) img.toNat := by
  have h0 := toNat_byte0 img
  have h1 := toNat_byte1 img
  have hlt := img.isLt
  rw [fieldGet, toNat_fieldByte_and]
  cases f <;> simp [fieldByte, fieldRow, fieldLo, fieldWidth, bitsGet, h0, h1] <;> omega

theorem toNat_and_wmask (v : Byte) (f : CfgField) : (v &&& fieldWmask f).toNat = v.toNat % 2 ^ fieldWidth f := by
  cases f <;> (revert v; decide)

theorem toNat_mergeOne (b : Byte) (x : BitVec 1) (k : Fin 8) :
    ((b &&& ~~~(1#8 <<< k.val)) ||| (x.setWidth 8 <<< k.val)).toNat =
      b.toNat - b.toNat / 2 ^ k.val % 2 * 2 ^ k.val + x.toNat * 2 ^ k.val := by
  revert b x k; decide

theorem toNat_mergeTwo (b : Byte) (x : BitVec 2) (k : Fin 7) :
    ((b &&& ~~~(3#8 <<< k.val)) ||| (x.setWidth 8 <<< k.val)).toNat =
      b.toNat - b.toNat / 2 ^ k.val % 4 * 2 ^ k.val + x.toNat * 2 ^ k.val := by
  revert b x k; decide

/-- The byte mutation of FIELD_SET as a number (rule R82). -/
theorem toNat_fieldMerge (b : Byte) (f : CfgField) (v : BitVec 32) :
    (fieldMerge b f v).toNat =
      b.toNat - b.toNat / 2 ^ (fieldRow f).shift % 2 ^ fieldWidth f * 2 ^ (fieldRow f).shift +
        v.toNat % 2 ^ fieldWidth f * 2 ^ (fieldRow f).shift := by
  have key : ∀ (w : Nat) (x : BitVec w), w ≤ 8 → (v.setWidth 8 &&& fieldWmask f).toNat = x.toNat →
      v.setWidth 8 &&& fieldWmask f = x.setWidth 8 := by
    intro w x hw h
    apply BitVec.eq_of_toNat_eq
    have := x.isLt
    have h2 : 2 ^ w ≤ 2 ^ 8 := Nat.pow_le_pow_right (by decide) hw
    rw [h, BitVec.toNat_setWidth, Nat.mod_eq_of_lt (by omega)]
  have hv := toNat_and_wmask (v.setWidth 8) f
  have one : fieldWidth f = 1 → v.setWidth 8 &&& fieldWmask f = (v.setWidth 1).setWidth 8 := by
    intro h; apply key 1 _ (by decide); rw [hv, h]; simp
  have two : fieldWidth f = 2 → v.setWidth 8 &&& fieldWmask f = (v.setWidth 2).setWidth 8 := by
    intro h; apply key 2 _ (by decide); rw [hv, h]; simp
  unfold fieldMerge
  cases f
  case fq => rw [two rfl]; simpa [fieldRow, fieldWidth] using toNat_mergeTwo b (v.setWidth 2) 3
  case cr => rw [two rfl]; simpa [fieldRow, fieldWidth] using toNat_mergeTwo b (v.setWidth 2) 6
  case sd => rw [one rfl]; simpa [fieldRow, fieldWidth] using toNat_mergeOne b (v.setWidth 1) 0
  case tm => rw [one rfl]; simpa [fieldRow, fieldWidth] using toNat_mergeOne b (v.setWidth 1) 1
  case pol => rw [one rfl]; simpa [fieldRow, fieldWidth] using toNat_mergeOne b (v.setWidth 1) 2
  case os => rw [one rfl]; simpa [fieldRow, fieldWidth] using toNat_mergeOne b (v.setWidth 1) 7
  case em => rw [one rfl]; simpa [fieldRow, fieldWidth] using toNat_mergeOne b (v.setWidth 1) 4
  case al => rw [one rfl]; simpa [fieldRow, fieldWidth] using toNat_mergeOne b (v.setWidth 1) 5

/-- FIELD_SET replaces the bits of the field's place by the low bits of the value (rules R80, R82). -/
theorem toNat_fieldSet (img : Pair) (f : CfgField) (v : BitVec 32) :
    (fieldSet img f v).toNat = bitsSet (fieldLo f) (fieldWidth f) img.toNat v.toNat := by
  have h0 := toNat_byte0 img
  have h1 := toNat_byte1 img
  have hlt := img.isLt
  have hm := toNat_fieldMerge (fieldByte img f) f v
  unfold fieldSet bitsSet bitsGet
  cases f <;> simp only [fieldRow, fieldByte, fieldLo, fieldWidth, if_true, if_false, Bool.false_eq_true] at hm ⊢ <;>
    rw [toNat_pairOf, hm] <;> omega

end Sys2Proof.Machine
end

