-- ==== Sys2Proof/Laws/State.lean ====
section
/-! SUPPORT. One lemma per field of State and per named update. -/

namespace Sys2Proof.Machine

@[simp] theorem acceptWord_busy (w : CmdWord) (s : State) : (acceptWord w s).busy = true := rfl
@[simp] theorem acceptWord_op (w : CmdWord) (s : State) : (acceptWord w s).op = opOf w := rfl
@[simp] theorem acceptWord_arg (w : CmdWord) (s : State) : (acceptWord w s).arg = argOf w := rfl
@[simp] theorem acceptWord_phase (w : CmdWord) (s : State) : (acceptWord w s).phase = 0#2 := rfl
@[simp] theorem acceptWord_cfg (w : CmdWord) (s : State) : (acceptWord w s).cfg = s.cfg := rfl
@[simp] theorem acceptWord_data (w : CmdWord) (s : State) : (acceptWord w s).data = s.data := rfl
@[simp] theorem acceptWord_rsp (w : CmdWord) (s : State) : (acceptWord w s).rsp = s.rsp := rfl
@[simp] theorem acceptWord_rspPending (w : CmdWord) (s : State) : (acceptWord w s).rspPending = s.rspPending := rfl
@[simp] theorem acceptWord_reqTaken (w : CmdWord) (s : State) : (acceptWord w s).reqTaken = s.reqTaken := rfl
@[simp] theorem acceptWord_devAddr (w : CmdWord) (s : State) : (acceptWord w s).devAddr = s.devAddr := rfl
@[simp] theorem acceptWord_mem (w : CmdWord) (s : State) : (acceptWord w s).mem = s.mem := rfl
@[simp] theorem acceptWord_bus (w : CmdWord) (s : State) : (acceptWord w s).bus = s.bus := rfl
@[simp] theorem acceptWord_turns (w : CmdWord) (s : State) : (acceptWord w s).turns = s.turns := rfl
@[simp] theorem acceptWord_freeNo (w : CmdWord) (s : State) : (acceptWord w s).freeNo = s.freeNo := rfl
@[simp] theorem acceptWord_cmds (w : CmdWord) (s : State) : (acceptWord w s).cmds = s.cmds := rfl
@[simp] theorem acceptWord_rspReady (w : CmdWord) (s : State) : (acceptWord w s).rspReady = s.rspReady := rfl
@[simp] theorem acceptWord_rst (w : CmdWord) (s : State) : (acceptWord w s).rst = s.rst := rfl
@[simp] theorem acceptWord_taken (w : CmdWord) (s : State) : (acceptWord w s).taken = s.taken := rfl

@[simp] theorem respond_busy (r : Rsp) (s : State) : (respond r s).busy = s.busy := rfl
@[simp] theorem respond_op (r : Rsp) (s : State) : (respond r s).op = s.op := rfl
@[simp] theorem respond_arg (r : Rsp) (s : State) : (respond r s).arg = s.arg := rfl
@[simp] theorem respond_phase (r : Rsp) (s : State) : (respond r s).phase = s.phase := rfl
@[simp] theorem respond_cfg (r : Rsp) (s : State) : (respond r s).cfg = s.cfg := rfl
@[simp] theorem respond_data (r : Rsp) (s : State) : (respond r s).data = s.data := rfl
@[simp] theorem respond_rsp (r : Rsp) (s : State) : (respond r s).rsp = rspWord r := rfl
@[simp] theorem respond_rspPending (r : Rsp) (s : State) : (respond r s).rspPending = true := rfl
@[simp] theorem respond_reqTaken (r : Rsp) (s : State) : (respond r s).reqTaken = s.reqTaken := rfl
@[simp] theorem respond_devAddr (r : Rsp) (s : State) : (respond r s).devAddr = s.devAddr := rfl
@[simp] theorem respond_mem (r : Rsp) (s : State) : (respond r s).mem = s.mem := rfl
@[simp] theorem respond_bus (r : Rsp) (s : State) : (respond r s).bus = s.bus := rfl
@[simp] theorem respond_turns (r : Rsp) (s : State) : (respond r s).turns = s.turns := rfl
@[simp] theorem respond_freeNo (r : Rsp) (s : State) : (respond r s).freeNo = s.freeNo := rfl
@[simp] theorem respond_cmds (r : Rsp) (s : State) : (respond r s).cmds = s.cmds := rfl
@[simp] theorem respond_rspReady (r : Rsp) (s : State) : (respond r s).rspReady = s.rspReady := rfl
@[simp] theorem respond_rst (r : Rsp) (s : State) : (respond r s).rst = s.rst := rfl
@[simp] theorem respond_taken (r : Rsp) (s : State) : (respond r s).taken = s.taken := rfl

@[simp] theorem raiseTfail_busy (e : Byte) (r : SensorReg) (w : Bool) (s : State) : (raiseTfail e r w s).busy = s.busy := rfl
@[simp] theorem raiseTfail_op (e : Byte) (r : SensorReg) (w : Bool) (s : State) : (raiseTfail e r w s).op = s.op := rfl
@[simp] theorem raiseTfail_arg (e : Byte) (r : SensorReg) (w : Bool) (s : State) : (raiseTfail e r w s).arg = s.arg := rfl
@[simp] theorem raiseTfail_phase (e : Byte) (r : SensorReg) (w : Bool) (s : State) : (raiseTfail e r w s).phase = s.phase := rfl
@[simp] theorem raiseTfail_cfg (e : Byte) (r : SensorReg) (w : Bool) (s : State) : (raiseTfail e r w s).cfg = s.cfg := rfl
@[simp] theorem raiseTfail_data (e : Byte) (r : SensorReg) (w : Bool) (s : State) : (raiseTfail e r w s).data = s.data := rfl
@[simp] theorem raiseTfail_rsp (e : Byte) (r : SensorReg) (w : Bool) (s : State) : (raiseTfail e r w s).rsp = rspWord (rspTfail e (regAddr r) w) := rfl
@[simp] theorem raiseTfail_rspPending (e : Byte) (r : SensorReg) (w : Bool) (s : State) : (raiseTfail e r w s).rspPending = true := rfl
@[simp] theorem raiseTfail_reqTaken (e : Byte) (r : SensorReg) (w : Bool) (s : State) : (raiseTfail e r w s).reqTaken = s.reqTaken := rfl
@[simp] theorem raiseTfail_devAddr (e : Byte) (r : SensorReg) (w : Bool) (s : State) : (raiseTfail e r w s).devAddr = s.devAddr := rfl
@[simp] theorem raiseTfail_mem (e : Byte) (r : SensorReg) (w : Bool) (s : State) : (raiseTfail e r w s).mem = s.mem := rfl
@[simp] theorem raiseTfail_bus (e : Byte) (r : SensorReg) (w : Bool) (s : State) : (raiseTfail e r w s).bus = s.bus := rfl
@[simp] theorem raiseTfail_turns (e : Byte) (r : SensorReg) (w : Bool) (s : State) : (raiseTfail e r w s).turns = s.turns := rfl
@[simp] theorem raiseTfail_freeNo (e : Byte) (r : SensorReg) (w : Bool) (s : State) : (raiseTfail e r w s).freeNo = s.freeNo := rfl
@[simp] theorem raiseTfail_cmds (e : Byte) (r : SensorReg) (w : Bool) (s : State) : (raiseTfail e r w s).cmds = s.cmds := rfl
@[simp] theorem raiseTfail_rspReady (e : Byte) (r : SensorReg) (w : Bool) (s : State) : (raiseTfail e r w s).rspReady = s.rspReady := rfl
@[simp] theorem raiseTfail_rst (e : Byte) (r : SensorReg) (w : Bool) (s : State) : (raiseTfail e r w s).rst = s.rst := rfl
@[simp] theorem raiseTfail_taken (e : Byte) (r : SensorReg) (w : Bool) (s : State) : (raiseTfail e r w s).taken = s.taken := rfl

@[simp] theorem raiseIllegal_busy (s : State) : (raiseIllegal s).busy = s.busy := rfl
@[simp] theorem raiseIllegal_op (s : State) : (raiseIllegal s).op = s.op := rfl
@[simp] theorem raiseIllegal_arg (s : State) : (raiseIllegal s).arg = s.arg := rfl
@[simp] theorem raiseIllegal_phase (s : State) : (raiseIllegal s).phase = s.phase := rfl
@[simp] theorem raiseIllegal_cfg (s : State) : (raiseIllegal s).cfg = s.cfg := rfl
@[simp] theorem raiseIllegal_data (s : State) : (raiseIllegal s).data = s.data := rfl
@[simp] theorem raiseIllegal_rsp (s : State) : (raiseIllegal s).rsp = rspWord rspIllegal := rfl
@[simp] theorem raiseIllegal_rspPending (s : State) : (raiseIllegal s).rspPending = true := rfl
@[simp] theorem raiseIllegal_reqTaken (s : State) : (raiseIllegal s).reqTaken = s.reqTaken := rfl
@[simp] theorem raiseIllegal_devAddr (s : State) : (raiseIllegal s).devAddr = s.devAddr := rfl
@[simp] theorem raiseIllegal_mem (s : State) : (raiseIllegal s).mem = s.mem := rfl
@[simp] theorem raiseIllegal_bus (s : State) : (raiseIllegal s).bus = s.bus := rfl
@[simp] theorem raiseIllegal_turns (s : State) : (raiseIllegal s).turns = s.turns := rfl
@[simp] theorem raiseIllegal_freeNo (s : State) : (raiseIllegal s).freeNo = s.freeNo := rfl
@[simp] theorem raiseIllegal_cmds (s : State) : (raiseIllegal s).cmds = s.cmds := rfl
@[simp] theorem raiseIllegal_rspReady (s : State) : (raiseIllegal s).rspReady = s.rspReady := rfl
@[simp] theorem raiseIllegal_rst (s : State) : (raiseIllegal s).rst = s.rst := rfl
@[simp] theorem raiseIllegal_taken (s : State) : (raiseIllegal s).taken = s.taken := rfl

@[simp] theorem releaseRsp_busy (s : State) : (releaseRsp s).busy = false := rfl
@[simp] theorem releaseRsp_op (s : State) : (releaseRsp s).op = s.op := rfl
@[simp] theorem releaseRsp_arg (s : State) : (releaseRsp s).arg = s.arg := rfl
@[simp] theorem releaseRsp_phase (s : State) : (releaseRsp s).phase = s.phase := rfl
@[simp] theorem releaseRsp_cfg (s : State) : (releaseRsp s).cfg = s.cfg := rfl
@[simp] theorem releaseRsp_data (s : State) : (releaseRsp s).data = s.data := rfl
@[simp] theorem releaseRsp_rsp (s : State) : (releaseRsp s).rsp = s.rsp := rfl
@[simp] theorem releaseRsp_rspPending (s : State) : (releaseRsp s).rspPending = false := rfl
@[simp] theorem releaseRsp_reqTaken (s : State) : (releaseRsp s).reqTaken = s.reqTaken := rfl
@[simp] theorem releaseRsp_devAddr (s : State) : (releaseRsp s).devAddr = s.devAddr := rfl
@[simp] theorem releaseRsp_mem (s : State) : (releaseRsp s).mem = s.mem := rfl
@[simp] theorem releaseRsp_bus (s : State) : (releaseRsp s).bus = s.bus := rfl
@[simp] theorem releaseRsp_turns (s : State) : (releaseRsp s).turns = s.turns := rfl
@[simp] theorem releaseRsp_freeNo (s : State) : (releaseRsp s).freeNo = s.freeNo := rfl
@[simp] theorem releaseRsp_cmds (s : State) : (releaseRsp s).cmds = s.cmds := rfl
@[simp] theorem releaseRsp_rspReady (s : State) : (releaseRsp s).rspReady = s.rspReady := rfl
@[simp] theorem releaseRsp_rst (s : State) : (releaseRsp s).rst = s.rst := rfl
@[simp] theorem releaseRsp_taken (s : State) : (releaseRsp s).taken = s.taken := rfl

@[simp] theorem blockReset_busy (s : State) : (blockReset s).busy = false := rfl
@[simp] theorem blockReset_op (s : State) : (blockReset s).op = (Config.holdJunk s.freeNo).op := rfl
@[simp] theorem blockReset_arg (s : State) : (blockReset s).arg = (Config.holdJunk s.freeNo).arg := rfl
@[simp] theorem blockReset_phase (s : State) : (blockReset s).phase = 0#2 := rfl
@[simp] theorem blockReset_cfg (s : State) : (blockReset s).cfg = (Config.holdJunk s.freeNo).cfg := rfl
@[simp] theorem blockReset_data (s : State) : (blockReset s).data = (Config.holdJunk s.freeNo).data := rfl
@[simp] theorem blockReset_rsp (s : State) : (blockReset s).rsp = (Config.holdJunk s.freeNo).rsp := rfl
@[simp] theorem blockReset_rspPending (s : State) : (blockReset s).rspPending = false := rfl
@[simp] theorem blockReset_reqTaken (s : State) : (blockReset s).reqTaken = false := rfl
@[simp] theorem blockReset_devAddr (s : State) : (blockReset s).devAddr = s.devAddr := rfl
@[simp] theorem blockReset_mem (s : State) : (blockReset s).mem = s.mem := rfl
@[simp] theorem blockReset_bus (s : State) : (blockReset s).bus = s.bus := rfl
@[simp] theorem blockReset_turns (s : State) : (blockReset s).turns = s.turns := rfl
@[simp] theorem blockReset_freeNo (s : State) : (blockReset s).freeNo = s.freeNo + 1 := rfl
@[simp] theorem blockReset_cmds (s : State) : (blockReset s).cmds = s.cmds := rfl
@[simp] theorem blockReset_rspReady (s : State) : (blockReset s).rspReady = s.rspReady := rfl
@[simp] theorem blockReset_rst (s : State) : (blockReset s).rst = s.rst := rfl
@[simp] theorem blockReset_taken (s : State) : (blockReset s).taken = s.taken := rfl

@[simp] theorem passStep_busy (s : State) : (passStep s).busy = s.busy := rfl
@[simp] theorem passStep_op (s : State) : (passStep s).op = s.op := rfl
@[simp] theorem passStep_arg (s : State) : (passStep s).arg = s.arg := rfl
@[simp] theorem passStep_phase (s : State) : (passStep s).phase = s.phase := rfl
@[simp] theorem passStep_cfg (s : State) : (passStep s).cfg = s.cfg := rfl
@[simp] theorem passStep_data (s : State) : (passStep s).data = s.data := rfl
@[simp] theorem passStep_rsp (s : State) : (passStep s).rsp = s.rsp := rfl
@[simp] theorem passStep_rspPending (s : State) : (passStep s).rspPending = s.rspPending := rfl
@[simp] theorem passStep_reqTaken (s : State) : (passStep s).reqTaken = s.reqTaken := rfl
@[simp] theorem passStep_devAddr (s : State) : (passStep s).devAddr = s.devAddr := rfl
@[simp] theorem passStep_mem (s : State) : (passStep s).mem = s.mem := rfl
@[simp] theorem passStep_bus (s : State) : (passStep s).bus = s.bus := rfl
@[simp] theorem passStep_turns (s : State) : (passStep s).turns = s.turns := rfl
@[simp] theorem passStep_freeNo (s : State) : (passStep s).freeNo = s.freeNo := rfl
@[simp] theorem passStep_cmds (s : State) : (passStep s).cmds = s.cmds := rfl
@[simp] theorem passStep_rspReady (s : State) : (passStep s).rspReady = s.rspReady := rfl
@[simp] theorem passStep_taken (s : State) : (passStep s).taken = s.taken := rfl
@[simp] theorem passStep_rst (s : State) : (passStep s).rst = s.rst.tail := rfl

/-- With nothing listed on the `rst` line a step does not change it. -/
theorem passStep_of_nil (s : State) (h : s.rst = []) : passStep s = s := by
  rcases s with ⟨⟩; cases h; rfl

@[simp] theorem beginTurn_busy (s : State) : (beginTurn s).busy = s.busy := rfl
@[simp] theorem beginTurn_op (s : State) : (beginTurn s).op = s.op := rfl
@[simp] theorem beginTurn_arg (s : State) : (beginTurn s).arg = s.arg := rfl
@[simp] theorem beginTurn_phase (s : State) : (beginTurn s).phase = s.phase := rfl
@[simp] theorem beginTurn_cfg (s : State) : (beginTurn s).cfg = s.cfg := rfl
@[simp] theorem beginTurn_data (s : State) : (beginTurn s).data = s.data := rfl
@[simp] theorem beginTurn_rsp (s : State) : (beginTurn s).rsp = s.rsp := rfl
@[simp] theorem beginTurn_rspPending (s : State) : (beginTurn s).rspPending = s.rspPending := rfl
@[simp] theorem beginTurn_reqTaken (s : State) : (beginTurn s).reqTaken = s.reqTaken := rfl
@[simp] theorem beginTurn_devAddr (s : State) : (beginTurn s).devAddr = s.devAddr := rfl
@[simp] theorem beginTurn_mem (s : State) : (beginTurn s).mem = applyChanges s.devAddr (s.turnAt 0).before s.mem := rfl
@[simp] theorem beginTurn_bus (s : State) : (beginTurn s).bus = s.bus := rfl
@[simp] theorem beginTurn_turns (s : State) : (beginTurn s).turns = s.turns.tail := rfl
@[simp] theorem beginTurn_freeNo (s : State) : (beginTurn s).freeNo = s.freeNo + 1 := rfl
@[simp] theorem beginTurn_cmds (s : State) : (beginTurn s).cmds = s.cmds := rfl
@[simp] theorem beginTurn_rspReady (s : State) : (beginTurn s).rspReady = s.rspReady := rfl
@[simp] theorem beginTurn_rst (s : State) : (beginTurn s).rst = s.rst := rfl
@[simp] theorem beginTurn_taken (s : State) : (beginTurn s).taken = s.taken := rfl

@[simp] theorem logReq_busy (q : Req) (s : State) : (logReq q s).busy = s.busy := rfl
@[simp] theorem logReq_op (q : Req) (s : State) : (logReq q s).op = s.op := rfl
@[simp] theorem logReq_arg (q : Req) (s : State) : (logReq q s).arg = s.arg := rfl
@[simp] theorem logReq_phase (q : Req) (s : State) : (logReq q s).phase = s.phase := rfl
@[simp] theorem logReq_cfg (q : Req) (s : State) : (logReq q s).cfg = s.cfg := rfl
@[simp] theorem logReq_data (q : Req) (s : State) : (logReq q s).data = s.data := rfl
@[simp] theorem logReq_rsp (q : Req) (s : State) : (logReq q s).rsp = s.rsp := rfl
@[simp] theorem logReq_rspPending (q : Req) (s : State) : (logReq q s).rspPending = s.rspPending := rfl
@[simp] theorem logReq_reqTaken (q : Req) (s : State) : (logReq q s).reqTaken = s.reqTaken := rfl
@[simp] theorem logReq_devAddr (q : Req) (s : State) : (logReq q s).devAddr = s.devAddr := rfl
@[simp] theorem logReq_mem (q : Req) (s : State) : (logReq q s).mem = s.mem := rfl
@[simp] theorem logReq_bus (q : Req) (s : State) : (logReq q s).bus = s.bus ++ [⟨s.devAddr, q⟩] := rfl
@[simp] theorem logReq_turns (q : Req) (s : State) : (logReq q s).turns = s.turns := rfl
@[simp] theorem logReq_freeNo (q : Req) (s : State) : (logReq q s).freeNo = s.freeNo := rfl
@[simp] theorem logReq_cmds (q : Req) (s : State) : (logReq q s).cmds = s.cmds := rfl
@[simp] theorem logReq_rspReady (q : Req) (s : State) : (logReq q s).rspReady = s.rspReady := rfl
@[simp] theorem logReq_rst (q : Req) (s : State) : (logReq q s).rst = s.rst := rfl
@[simp] theorem logReq_taken (q : Req) (s : State) : (logReq q s).taken = s.taken := rfl

@[simp] theorem failReq_busy (q : Req) (landed : Bool) (s : State) : (failReq q landed s).busy = s.busy := rfl
@[simp] theorem failReq_op (q : Req) (landed : Bool) (s : State) : (failReq q landed s).op = s.op := rfl
@[simp] theorem failReq_arg (q : Req) (landed : Bool) (s : State) : (failReq q landed s).arg = s.arg := rfl
@[simp] theorem failReq_phase (q : Req) (landed : Bool) (s : State) : (failReq q landed s).phase = s.phase := rfl
@[simp] theorem failReq_cfg (q : Req) (landed : Bool) (s : State) : (failReq q landed s).cfg = s.cfg := rfl
@[simp] theorem failReq_data (q : Req) (landed : Bool) (s : State) : (failReq q landed s).data = s.data := rfl
@[simp] theorem failReq_rsp (q : Req) (landed : Bool) (s : State) : (failReq q landed s).rsp = s.rsp := rfl
@[simp] theorem failReq_rspPending (q : Req) (landed : Bool) (s : State) : (failReq q landed s).rspPending = s.rspPending := rfl
@[simp] theorem failReq_reqTaken (q : Req) (landed : Bool) (s : State) : (failReq q landed s).reqTaken = s.reqTaken := rfl
@[simp] theorem failReq_devAddr (q : Req) (landed : Bool) (s : State) : (failReq q landed s).devAddr = s.devAddr := rfl
@[simp] theorem failReq_mem (q : Req) (landed : Bool) (s : State) : (failReq q landed s).mem = if landed then storeReq q s.devAddr s.mem else s.mem := rfl
@[simp] theorem failReq_bus (q : Req) (landed : Bool) (s : State) : (failReq q landed s).bus = s.bus ++ [⟨s.devAddr, q⟩] := rfl
@[simp] theorem failReq_turns (q : Req) (landed : Bool) (s : State) : (failReq q landed s).turns = s.turns := rfl
@[simp] theorem failReq_freeNo (q : Req) (landed : Bool) (s : State) : (failReq q landed s).freeNo = s.freeNo := rfl
@[simp] theorem failReq_cmds (q : Req) (landed : Bool) (s : State) : (failReq q landed s).cmds = s.cmds := rfl
@[simp] theorem failReq_rspReady (q : Req) (landed : Bool) (s : State) : (failReq q landed s).rspReady = s.rspReady := rfl
@[simp] theorem failReq_rst (q : Req) (landed : Bool) (s : State) : (failReq q landed s).rst = s.rst := rfl
@[simp] theorem failReq_taken (q : Req) (landed : Bool) (s : State) : (failReq q landed s).taken = s.taken := rfl

@[simp] theorem latchAnswer_busy (q : Req) (p : Pair) (s : State) : (latchAnswer q p s).busy = s.busy := by
  rcases q with ⟨_ | _ | _ | _⟩ | _ <;> rfl
@[simp] theorem latchAnswer_op (q : Req) (p : Pair) (s : State) : (latchAnswer q p s).op = s.op := by
  rcases q with ⟨_ | _ | _ | _⟩ | _ <;> rfl
@[simp] theorem latchAnswer_arg (q : Req) (p : Pair) (s : State) : (latchAnswer q p s).arg = s.arg := by
  rcases q with ⟨_ | _ | _ | _⟩ | _ <;> rfl
@[simp] theorem latchAnswer_phase (q : Req) (p : Pair) (s : State) : (latchAnswer q p s).phase = s.phase := by
  rcases q with ⟨_ | _ | _ | _⟩ | _ <;> rfl
@[simp] theorem latchAnswer_rsp (q : Req) (p : Pair) (s : State) : (latchAnswer q p s).rsp = s.rsp := by
  rcases q with ⟨_ | _ | _ | _⟩ | _ <;> rfl
@[simp] theorem latchAnswer_rspPending (q : Req) (p : Pair) (s : State) : (latchAnswer q p s).rspPending = s.rspPending := by
  rcases q with ⟨_ | _ | _ | _⟩ | _ <;> rfl
@[simp] theorem latchAnswer_reqTaken (q : Req) (p : Pair) (s : State) : (latchAnswer q p s).reqTaken = s.reqTaken := by
  rcases q with ⟨_ | _ | _ | _⟩ | _ <;> rfl
@[simp] theorem latchAnswer_devAddr (q : Req) (p : Pair) (s : State) : (latchAnswer q p s).devAddr = s.devAddr := by
  rcases q with ⟨_ | _ | _ | _⟩ | _ <;> rfl
@[simp] theorem latchAnswer_mem (q : Req) (p : Pair) (s : State) : (latchAnswer q p s).mem = s.mem := by
  rcases q with ⟨_ | _ | _ | _⟩ | _ <;> rfl
@[simp] theorem latchAnswer_bus (q : Req) (p : Pair) (s : State) : (latchAnswer q p s).bus = s.bus := by
  rcases q with ⟨_ | _ | _ | _⟩ | _ <;> rfl
@[simp] theorem latchAnswer_turns (q : Req) (p : Pair) (s : State) : (latchAnswer q p s).turns = s.turns := by
  rcases q with ⟨_ | _ | _ | _⟩ | _ <;> rfl
@[simp] theorem latchAnswer_freeNo (q : Req) (p : Pair) (s : State) : (latchAnswer q p s).freeNo = s.freeNo := by
  rcases q with ⟨_ | _ | _ | _⟩ | _ <;> rfl
@[simp] theorem latchAnswer_cmds (q : Req) (p : Pair) (s : State) : (latchAnswer q p s).cmds = s.cmds := by
  rcases q with ⟨_ | _ | _ | _⟩ | _ <;> rfl
@[simp] theorem latchAnswer_rspReady (q : Req) (p : Pair) (s : State) : (latchAnswer q p s).rspReady = s.rspReady := by
  rcases q with ⟨_ | _ | _ | _⟩ | _ <;> rfl
@[simp] theorem latchAnswer_rst (q : Req) (p : Pair) (s : State) : (latchAnswer q p s).rst = s.rst := by
  rcases q with ⟨_ | _ | _ | _⟩ | _ <;> rfl
@[simp] theorem latchAnswer_taken (q : Req) (p : Pair) (s : State) : (latchAnswer q p s).taken = s.taken := by
  rcases q with ⟨_ | _ | _ | _⟩ | _ <;> rfl

@[simp] theorem completeReq_busy (q : Req) (s : State) : (completeReq q s).busy = s.busy := by
  simp [completeReq]
@[simp] theorem completeReq_op (q : Req) (s : State) : (completeReq q s).op = s.op := by
  simp [completeReq]
@[simp] theorem completeReq_arg (q : Req) (s : State) : (completeReq q s).arg = s.arg := by
  simp [completeReq]
@[simp] theorem completeReq_phase (q : Req) (s : State) : (completeReq q s).phase = s.phase + 1#2 := by
  simp [completeReq]
@[simp] theorem completeReq_rsp (q : Req) (s : State) : (completeReq q s).rsp = s.rsp := by
  simp [completeReq]
@[simp] theorem completeReq_rspPending (q : Req) (s : State) : (completeReq q s).rspPending = s.rspPending := by
  simp [completeReq]
@[simp] theorem completeReq_reqTaken (q : Req) (s : State) : (completeReq q s).reqTaken = s.reqTaken := by
  simp [completeReq]
@[simp] theorem completeReq_devAddr (q : Req) (s : State) : (completeReq q s).devAddr = s.devAddr := by
  simp [completeReq]
@[simp] theorem completeReq_mem (q : Req) (s : State) : (completeReq q s).mem = storeReq q s.devAddr s.mem := by
  simp [completeReq]
@[simp] theorem completeReq_bus (q : Req) (s : State) : (completeReq q s).bus = s.bus ++ [⟨s.devAddr, q⟩] := by
  simp [completeReq]
@[simp] theorem completeReq_turns (q : Req) (s : State) : (completeReq q s).turns = s.turns := by
  simp [completeReq]
@[simp] theorem completeReq_freeNo (q : Req) (s : State) : (completeReq q s).freeNo = s.freeNo := by
  simp [completeReq]
@[simp] theorem completeReq_cmds (q : Req) (s : State) : (completeReq q s).cmds = s.cmds := by
  simp [completeReq]
@[simp] theorem completeReq_rspReady (q : Req) (s : State) : (completeReq q s).rspReady = s.rspReady := by
  simp [completeReq]
@[simp] theorem completeReq_rst (q : Req) (s : State) : (completeReq q s).rst = s.rst := by
  simp [completeReq]
@[simp] theorem completeReq_taken (q : Req) (s : State) : (completeReq q s).taken = s.taken := by
  simp [completeReq]

@[simp] theorem completeReq_cfgRead_cfg (s : State) :
    (completeReq (.read .configuration) s).cfg = readPair s.mem s.devAddr .configuration := rfl

@[simp] theorem completeReq_cfgRead_data (s : State) : (completeReq (.read .configuration) s).data = s.data := rfl

@[simp] theorem completeReq_write_cfg (r : SensorReg) (p : Pair) (s : State) :
    (completeReq (.write r p) s).cfg = s.cfg := rfl

@[simp] theorem completeReq_write_data (r : SensorReg) (p : Pair) (s : State) :
    (completeReq (.write r p) s).data = s.data := rfl

theorem completeReq_write (r : SensorReg) (p : Pair) (s : State) :
    completeReq (.write r p) s =
      { s with phase := s.phase + 1#2, mem := writePair s.mem s.devAddr r p, bus := s.bus ++ [⟨s.devAddr, .write r p⟩] } := rfl

@[simp] theorem hangReq_devAddr (q : Req) (c : Cut) (s : State) : (hangReq q c s).devAddr = s.devAddr := by
  cases c <;> rfl

@[simp] theorem hangReq_rspPending (q : Req) (c : Cut) (s : State) : (hangReq q c s).rspPending = s.rspPending := by
  cases c <;> rfl

@[simp] theorem hangReq_busy (q : Req) (c : Cut) (s : State) : (hangReq q c s).busy = s.busy := by
  cases c <;> rfl

@[simp] theorem hangReq_phase (q : Req) (c : Cut) (s : State) : (hangReq q c s).phase = s.phase := by
  cases c <;> rfl

/-- The `k`-th turn from a state whose first turn has begun is the one after it. -/
@[simp] theorem beginTurn_turnAt (s : State) (k : Nat) : (beginTurn s).turnAt k = s.turnAt (k + 1) := by
  simp [State.turnAt, Nat.add_comm, Nat.add_left_comm]

end Sys2Proof.Machine
end

