-- ==== Sys2Proof/Laws/Memory.lean ====
section
/-! SUPPORT. The sensor's register space: a read after a write, the canonical form, and the addresses a write can list. -/

namespace Sys2Proof.Machine

theorem lookup_write (m : Memory) (a : Nat) (b : Byte) (x : Nat) (h : Memory.wf m = true) :
    Memory.lookup (Memory.write m a b) x = if x = a then some b else Memory.lookup m x := by
  induction m with
  | nil => simp [Memory.write, Memory.lookup, eq_comm]
  | cons c m ih =>
    obtain ⟨k, v⟩ := c
    have hm : Memory.wf m = true := by
      cases m with
      | nil => rfl
      | cons c' m' => obtain ⟨k', v'⟩ := c'; simp [Memory.wf] at h; exact h.2
    simp only [Memory.write]
    split
    · by_cases hx : x = a
      · simp [Memory.lookup, hx]
      · simp [Memory.lookup, hx, Ne.symm hx]
    · split
      · rename_i hk; subst hk
        by_cases hx : x = a
        · simp [Memory.lookup, hx]
        · simp [Memory.lookup, hx, Ne.symm hx]
      · simp only [Memory.lookup, ih hm]
        by_cases hx : x = a
        · have : k ≠ x := by omega
          simp [hx]; intro; omega
        · simp [hx]

/-- The least address a memory lists is at least `n`. -/
def Memory.above (n : Nat) : Memory → Prop
  | [] => True
  | (k, _) :: _ => n < k

theorem wf_cons (k : Nat) (b : Byte) (m : Memory) :
    Memory.wf ((k, b) :: m) = true ↔ Memory.above k m ∧ Memory.wf m = true := by
  cases m with
  | nil => simp [Memory.wf, Memory.above]
  | cons c m => obtain ⟨k', b'⟩ := c; simp [Memory.wf, Memory.above]

theorem above_write (m : Memory) (n a : Nat) (b : Byte) (h : Memory.above n m) (ha : n < a) :
    Memory.above n (Memory.write m a b) := by
  cases m with
  | nil => simpa [Memory.write, Memory.above]
  | cons c m =>
    obtain ⟨k, v⟩ := c
    simp only [Memory.above] at h
    simp only [Memory.write]
    split
    · simpa [Memory.above]
    · split <;> simpa [Memory.above]

/-- A write keeps the canonical form. -/
theorem wf_write (m : Memory) (a : Nat) (b : Byte) (h : Memory.wf m = true) :
    Memory.wf (Memory.write m a b) = true := by
  induction m with
  | nil => rfl
  | cons c m ih =>
    obtain ⟨k, v⟩ := c
    have hk := (wf_cons k v m).1 h
    simp only [Memory.write]
    split
    · rename_i hlt; exact (wf_cons _ _ _).2 ⟨hlt, h⟩
    · split
      · rename_i heq; subst heq; exact (wf_cons _ _ _).2 hk
      · exact (wf_cons _ _ _).2 ⟨above_write m k a b hk.1 (by omega), ih hk.2⟩

theorem mem_write (m : Memory) (a : Nat) (b : Byte) (c : Host.Cell) (h : c ∈ Memory.write m a b) :
    c = (a, b) ∨ c ∈ m := by
  induction m with
  | nil => simpa [Memory.write] using h
  | cons d m ih =>
    obtain ⟨k, v⟩ := d
    simp only [Memory.write] at h
    split at h
    · simpa using h
    · split at h
      · simp at h ⊢; tauto
      · simp at h ⊢
        rcases h with h | h
        · exact .inr (.inl h)
        · rcases ih h with h | h <;> tauto

theorem wf_writePair (m : Memory) (d : DevAddr) (r : SensorReg) (p : Pair) (h : Memory.wf m = true) :
    Memory.wf (writePair m d r p) = true :=
  wf_write _ _ _ (wf_write _ _ _ h)

theorem wf_storeReq (q : Req) (d : DevAddr) (m : Memory) (h : Memory.wf m = true) : Memory.wf (storeReq q d m) = true := by
  cases q with
  | read r => exact h
  | write r p => exact wf_writePair m d r p h

theorem wf_applyChanges (d : DevAddr) (cs : List Change) (m : Memory) (h : Memory.wf m = true) :
    Memory.wf (applyChanges d cs m) = true := by
  induction cs generalizing m with
  | nil => exact h
  | cons c cs ih => exact ih _ (wf_writePair m d c.reg c.pair h)

/-! ### Bytes and pairs -/

/-- What a byte reads as after a register is written. -/
theorem byteAt_writePair (m : Memory) (d : DevAddr) (r : SensorReg) (p : Pair) (a : Nat) (h : Memory.wf m = true) :
    byteAt (writePair m d r p) a =
      if a = cellKey d r + 1 then byte1 p else if a = cellKey d r then byte0 p else byteAt m a := by
  unfold byteAt writePair
  rw [lookup_write _ _ _ _ (wf_write _ _ _ h), lookup_write _ _ _ _ h]
  split
  · rfl
  · split <;> rfl

theorem cellKey_apart (d : DevAddr) (r r' : SensorReg) (h : r ≠ r') :
    cellKey d r + 1 < cellKey d r' ∨ cellKey d r' + 1 < cellKey d r := by
  revert h; cases d <;> cases r <;> cases r' <;> decide

/-- A register holds what was written to it. -/
theorem readPair_writePair_same (m : Memory) (d : DevAddr) (r : SensorReg) (p : Pair) (h : Memory.wf m = true) :
    readPair (writePair m d r p) d r = p := by
  simp [readPair, byteAt_writePair _ _ _ _ _ h]

/-- A write leaves every other register alone. -/
theorem readPair_writePair_other (m : Memory) (d : DevAddr) (r r' : SensorReg) (p : Pair) (h : Memory.wf m = true)
    (hr : r' ≠ r) : readPair (writePair m d r p) d r' = readPair m d r' := by
  have := cellKey_apart d r' r hr
  simp only [readPair, byteAt_writePair _ _ _ _ _ h]
  congr 1
  · rw [if_neg (by omega), if_neg (by omega)]
  · rw [if_neg (by omega), if_neg (by omega)]

end Sys2Proof.Machine
end

