-- ==== Sys2Proof/Laws/Ops.lean ====
section
/-! SUPPORT. One lemma for each shared operation that says what it can do: a transaction, a read or write with the rest of its
command, and what every operation keeps. -/

namespace Sys2Proof.Machine

/-! ### A transaction -/

theorem transact_ok (q : Req) (s : State) (h : (s.turnAt 0).reply = .ok) :
    transact q s = (.ok (answerOf q (beginTurn s)), completeReq q (beginTurn s)) := by
  simp [transact, h]

theorem transact_fail (q : Req) (s : State) (e : Byte) (l : Bool) (h : (s.turnAt 0).reply = .fail e l) :
    transact q s = (.fail e, failReq q l (beginTurn s)) := by
  simp [transact, h]

theorem transact_silent (q : Req) (s : State) (c : Cut) (h : (s.turnAt 0).reply = .silent c) :
    transact q s = (.stopped, hangReq q c (beginTurn s)) := by
  simp [transact, h]

theorem transact_reset (q : Req) (s : State) (c : Cut) (h : (s.turnAt 0).reply = .reset c) :
    transact q s = (.stopped, blockReset (hangReq q c (beginTurn s))) := by
  simp [transact, h]

theorem memRead_ok (r : SensorReg) (s : State) (k : Pair → State → State) (h : (s.turnAt 0).reply = .ok) :
    memRead r s k = k (seenNow s r) (completeReq (.read r) (beginTurn s)) := by
  simp [memRead, transact_ok _ _ h, answerOf, seenNow, memBefore]

theorem memRead_fail (r : SensorReg) (s : State) (k : Pair → State → State) (e : Byte) (l : Bool)
    (h : (s.turnAt 0).reply = .fail e l) :
    memRead r s k = raiseTfail e r false (failReq (.read r) l (beginTurn s)) := by
  simp [memRead, transact_fail _ _ _ _ h]

theorem memWrite_ok (r : SensorReg) (p : Pair) (s : State) (k : State → State) (h : (s.turnAt 0).reply = .ok) :
    memWrite r p s k = k (completeReq (.write r p) (beginTurn s)) := by
  simp [memWrite, transact_ok _ _ h]

theorem memWrite_fail (r : SensorReg) (p : Pair) (s : State) (k : State → State) (e : Byte) (l : Bool)
    (h : (s.turnAt 0).reply = .fail e l) :
    memWrite r p s k = raiseTfail e r true (failReq (.write r p) l (beginTurn s)) := by
  simp [memWrite, transact_fail _ _ _ _ h]

/-- Everything a read with the rest of its command can do, for a property kept by the beginning of a turn. -/
theorem memRead_cases {P : State → Prop} (r : SensorReg) (s : State) (k : Pair → State → State)
    (hok : ∀ p, P (k p (completeReq (.read r) (beginTurn s))))
    (hfail : ∀ e l, P (raiseTfail e r false (failReq (.read r) l (beginTurn s))))
    (hsil : ∀ c, P (hangReq (.read r) c (beginTurn s)))
    (hrst : ∀ c, P (blockReset (hangReq (.read r) c (beginTurn s)))) : P (memRead r s k) := by
  unfold memRead transact
  cases (s.turnAt 0).reply with
  | ok => exact hok _
  | fail e l => exact hfail e l
  | silent c => exact hsil c
  | reset c => exact hrst c

/-- Everything a write with the rest of its command can do. -/
theorem memWrite_cases {P : State → Prop} (r : SensorReg) (p : Pair) (s : State) (k : State → State)
    (hok : P (k (completeReq (.write r p) (beginTurn s))))
    (hfail : ∀ e l, P (raiseTfail e r true (failReq (.write r p) l (beginTurn s))))
    (hsil : ∀ c, P (hangReq (.write r p) c (beginTurn s)))
    (hrst : ∀ c, P (blockReset (hangReq (.write r p) c (beginTurn s)))) : P (memWrite r p s k) := by
  unfold memWrite transact
  cases (s.turnAt 0).reply with
  | ok => exact hok
  | fail e l => exact hfail e l
  | silent c => exact hsil c
  | reset c => exact hrst c

/-! ### Addresses -/

theorem inSpace_cellKey (d : DevAddr) (r : SensorReg) :
    inSpace d (cellKey d r) = true ∧ inSpace d (cellKey d r + 1) = true := by
  cases d <;> cases r <;> decide

theorem inSpace_writePair (d : DevAddr) (r : SensorReg) (p : Pair) (m : Memory)
    (h : ∀ c ∈ m, inSpace d c.1 = true) : ∀ c ∈ writePair m d r p, inSpace d c.1 = true := by
  intro c hc
  rcases mem_write _ _ _ _ hc with rfl | hc
  · exact (inSpace_cellKey d r).2
  · rcases mem_write _ _ _ _ hc with rfl | hc
    · exact (inSpace_cellKey d r).1
    · exact h c hc

theorem inSpace_storeReq (d : DevAddr) (q : Req) (m : Memory)
    (h : ∀ c ∈ m, inSpace d c.1 = true) : ∀ c ∈ storeReq q d m, inSpace d c.1 = true := by
  cases q with
  | read r => exact h
  | write r p => exact inSpace_writePair d r p m h

theorem inSpace_applyChanges (d : DevAddr) (cs : List Change) (m : Memory)
    (h : ∀ c ∈ m, inSpace d c.1 = true) : ∀ c ∈ applyChanges d cs m, inSpace d c.1 = true := by
  induction cs generalizing m with
  | nil => exact h
  | cons x cs ih => exact ih _ (inSpace_writePair d x.reg x.pair m h)

end Sys2Proof.Machine
end

