-- ==== Sys2Proof/Laws/Exec.lean ====
section
/-! SUPPORT. The five shapes of a command: what exec does, said once for all 40. -/

namespace Sys2Proof.Machine

/-- The shapes: a pure command with its response, and the four sequenced shapes. -/
inductive Shape where
  | pure (r : Rsp)
  | readCount (r : SensorReg)
  | writeCount (r : SensorReg) (c : Int)
  | getField (f : CfgField)
  | setField (f : CfgField) (v : BitVec 32)

/-- The shape of a command. -/
def shapeOf : Instr → Shape
  | .decN byte0 byte1 => .pure (dCnt (decodeTemp (pairOf byte0 byte1) false))
  | .decE byte0 byte1 => .pure (dCnt (decodeTemp (pairOf byte0 byte1) true))
  | .encN c => .pure (dPair (encodeTemp c false))
  | .encE c => .pure (dPair (encodeTemp c true))
  | .c2f pin n => .pure (dFah pin n)
  | .fgetSd img => .pure (dFld (fieldGet img .sd))
  | .fgetTm img => .pure (dFld (fieldGet img .tm))
  | .fgetPol img => .pure (dFld (fieldGet img .pol))
  | .fgetFq img => .pure (dFld (fieldGet img .fq))
  | .fgetOs img => .pure (dFld (fieldGet img .os))
  | .fgetEm img => .pure (dFld (fieldGet img .em))
  | .fgetAl img => .pure (dFld (fieldGet img .al))
  | .fgetCr img => .pure (dFld (fieldGet img .cr))
  | .fsetSd img v => .pure (dImg (fieldSet img .sd (v.setWidth 32)))
  | .fsetTm img v => .pure (dImg (fieldSet img .tm (v.setWidth 32)))
  | .fsetPol img v => .pure (dImg (fieldSet img .pol (v.setWidth 32)))
  | .fsetFq img v => .pure (dImg (fieldSet img .fq (v.setWidth 32)))
  | .ftrigOs img => .pure (dImg (fieldSet img .os 1#32))
  | .fsetEm img v => .pure (dImg (fieldSet img .em (v.setWidth 32)))
  | .fsetCr img v => .pure (dImg (fieldSet img .cr (v.setWidth 32)))
  | .rdTemp => .readCount .temperature
  | .rdTlow => .readCount .tLow
  | .rdThigh => .readCount .tHigh
  | .wrTlow c => .writeCount .tLow c
  | .wrThigh c => .writeCount .tHigh c
  | .cgetSd => .getField .sd
  | .cgetTm => .getField .tm
  | .cgetPol => .getField .pol
  | .cgetFq => .getField .fq
  | .cgetOs => .getField .os
  | .cgetEm => .getField .em
  | .cgetAl => .getField .al
  | .cgetCr => .getField .cr
  | .csetSd v => .setField .sd v
  | .csetTm v => .setField .tm v
  | .csetPol v => .setField .pol v
  | .csetFq v => .setField .fq v
  | .osTrig => .setField .os 1#32
  | .csetEm v => .setField .em v
  | .csetCr v => .setField .cr v

/-- What a shape does to a state. -/
def runShape : Shape → State → State
  | .pure r, s => respond r s
  | .readCount r, s => readAndDecode r s
  | .writeCount r c, s => encodeAndWrite r c s
  | .getField f, s => readField f s
  | .setField f v, s => modifyField f v s

/-- Every command answers a next state: that of its shape (rule R154). -/
theorem exec_eq_runShape (i : Instr) (s : State) : exec i s = .next (runShape (shapeOf i) s) := by
  cases i <;> rfl

/-- The response of a pure command obeys rule R41. -/
theorem rspLegal_of_pure (i : Instr) (r : Rsp) (h : shapeOf i = .pure r) : rspLegal (rspWord r) = true := by
  cases i <;> simp only [shapeOf, Shape.pure.injEq, reduceCtorEq] at h <;> subst h <;>
    simp only [rspLegal_dCnt, rspLegal_dFah, dPair, dImg, dFld, rspLegal_present]

/-- The sequenced commands are those of no pure shape (rules R27, R43). -/
theorem shapeOf_of_sequenced (i : Instr) (h : Sequenced i) (r : Rsp) : shapeOf i ≠ .pure r := by
  intro hs
  cases i <;> simp [Sequenced, Instr.opCode] at h <;> simp only [shapeOf, reduceCtorEq] at hs

/-- A threshold write never addresses the Temperature register (rule R27). -/
theorem writeCount_reg (i : Instr) (r : SensorReg) (c : Int) (h : shapeOf i = .writeCount r c) : r ≠ .temperature := by
  cases i <;> cases h <;> decide

/-- A count read never addresses the Configuration register (rule R27). -/
theorem readCount_reg (i : Instr) (r : SensorReg) (h : shapeOf i = .readCount r) : r ≠ .configuration := by
  cases i <;> cases h <;> decide

/-- The coming transaction, once the Configuration register has been read, is the second listed one. -/
@[simp] theorem afterCfgRead_turnAt (s : State) (k : Nat) : (afterCfgRead s).turnAt k = s.turnAt (k + 1) := by
  rw [← beginTurn_turnAt]; simp [afterCfgRead, State.turnAt]

@[simp] theorem completeReq_turnAt (q : Req) (s : State) (k : Nat) : (completeReq q s).turnAt k = s.turnAt k := by
  simp [State.turnAt]

@[simp] theorem acceptWord_turnAt (w : CmdWord) (s : State) (k : Nat) : (acceptWord w s).turnAt k = s.turnAt k := by
  simp [State.turnAt]

@[simp] theorem respond_turnAt (r : Rsp) (s : State) (k : Nat) : (respond r s).turnAt k = s.turnAt k := by
  simp [State.turnAt]

@[simp] theorem tail_tail (l : List Turn) : l.tail.tail = l.drop 2 := by
  rcases l with _ | ⟨a, _ | ⟨b, l⟩⟩ <;> rfl

/-! ### The four sequenced shapes when the transport answers -/

theorem readAndDecode_ok (r : SensorReg) (s : State) (h : Answered 2 s) :
    readAndDecode r s = respond (dCnt (decodeTemp (seenSecond s r) (emOf (seenNow s .configuration))))
      (completeReq (.read r) (beginTurn (afterCfgRead s))) := by
  unfold readAndDecode
  rw [memRead_ok _ _ _ (h 0 (by decide)), memRead_ok _ _ _ (by simpa using h 1 (by decide))]
  rfl

theorem encodeAndWrite_ok (r : SensorReg) (c : Int) (s : State) (h : Answered 2 s) :
    encodeAndWrite r c s = respond dZero
      (completeReq (.write r (encodeTemp c (emOf (seenNow s .configuration)))) (beginTurn (afterCfgRead s))) := by
  unfold encodeAndWrite
  rw [memRead_ok _ _ _ (h 0 (by decide)), memWrite_ok _ _ _ _ (by simpa using h 1 (by decide))]
  rfl

theorem readField_ok (f : CfgField) (s : State) (h : Answered 1 s) :
    readField f s = respond (dFld (fieldGet (seenNow s .configuration) f)) (afterCfgRead s) := by
  unfold readField
  rw [memRead_ok _ _ _ (h 0 (by decide))]
  rfl

theorem modifyField_ok (f : CfgField) (v : BitVec 32) (s : State) (h : Answered 2 s) :
    modifyField f v s = respond dZero
      (completeReq (.write .configuration (fieldSet (seenNow s .configuration) f v)) (beginTurn (afterCfgRead s))) := by
  unfold modifyField
  rw [memRead_ok _ _ _ (h 0 (by decide)), memWrite_ok _ _ _ _ (by simpa using h 1 (by decide))]
  rfl

/-! ### Frames of the sequenced shapes -/

theorem wf_memAtSecond (s : State) (h : Memory.wf s.mem = true) : Memory.wf (memAtSecond s) = true := by
  unfold memAtSecond memBefore
  apply wf_applyChanges
  simpa [afterCfgRead, storeReq] using wf_applyChanges _ _ _ h

/-- Two successful reads and a response. -/
theorem twoReadFrame_respond (r : SensorReg) (hr : r ≠ .configuration) (s : State) (rsp : Rsp) :
    TwoReadFrame s (respond rsp (completeReq (.read r) (beginTurn (afterCfgRead s)))) r := by
  unfold TwoReadFrame
  cases s
  cases r with
  | configuration => exact absurd rfl hr
  | _ =>
    simp [afterCfgRead, completeReq, respond, latchAnswer, logReq, beginTurn, answerOf, seenSecond, memAtSecond, memBefore,
      seenNow, storeReq, BitVec.add_assoc]

/-- A successful read, a successful write and a response. -/
theorem readWriteFrame_respond (r : SensorReg) (p : Pair) (s : State) (rsp : Rsp) (hw : Memory.wf s.mem = true) :
    ReadWriteFrame s (respond rsp (completeReq (.write r p) (beginTurn (afterCfgRead s)))) r p.toNat := by
  refine ⟨?_, fun a => ?_⟩
  · cases s
    simp [afterCfgRead, respond, seenNow, memBefore, BitVec.add_assoc]
  · have hm : (respond rsp (completeReq (.write r p) (beginTurn (afterCfgRead s)))).mem =
        writePair (memAtSecond s) s.devAddr r p := by
      simp [afterCfgRead, memAtSecond, memBefore, storeReq]
    rw [hm, byteAt_writePair _ _ _ _ _ (wf_memAtSecond s hw)]
    have h0 := toNat_byte0 p
    have h1 := toNat_byte1 p
    split_ifs <;> omega

/-! ### Where a transaction ends the command -/

/-- The second request of a shape, from the answer of the first read. -/
def secondReq : Shape → Pair → Option Req
  | .pure _, _ => none
  | .readCount r, _ => some (.read r)
  | .writeCount r c, p => some (.write r (encodeTemp c (emOf p)))
  | .getField _, _ => none
  | .setField f v, p => some (.write .configuration (fieldSet p f v))

theorem requestAt_one (i : Instr) (p : Pair) : requestAt i 1#2 p = secondReq (shapeOf i) p := by cases i <;> rfl

/-- A sequenced command whose first transaction ends it ends as that transaction does. -/
theorem runShape_first {s u : State} (i : Instr) (hq : Sequenced i) (h : ∀ k, memRead .configuration s k = u) :
    runShape (shapeOf i) s = u := by
  cases hx : shapeOf i with
  | pure r => exact absurd hx (shapeOf_of_sequenced i hq r)
  | readCount r => exact h _
  | writeCount r c => exact h _
  | getField f => exact h _
  | setField f v => exact h _

/-- A command with a second request makes it after the first read has succeeded. -/
theorem runShape_second {s : State} (i : Instr) (q : Req) (h : requestAt i 1#2 (seenNow s .configuration) = some q)
    (h0 : (s.turnAt 0).reply = .ok) :
    (∃ r k, q = .read r ∧ runShape (shapeOf i) s = memRead r (afterCfgRead s) k) ∨
    (∃ r p k, q = .write r p ∧ runShape (shapeOf i) s = memWrite r p (afterCfgRead s) k) := by
  rw [requestAt_one] at h
  cases hx : shapeOf i with
  | pure r => rw [hx] at h; cases h
  | getField f => rw [hx] at h; cases h
  | readCount r => rw [hx] at h; cases h; exact .inl ⟨_, _, rfl, memRead_ok _ _ _ h0⟩
  | writeCount r c => rw [hx] at h; cases h; exact .inr ⟨_, _, _, rfl, memRead_ok _ _ _ h0⟩
  | setField f v => rw [hx] at h; cases h; exact .inr ⟨_, _, _, rfl, memRead_ok _ _ _ h0⟩

/-! ### Everything a command can do -/

/-- A request a command may make: never a write of the Temperature register (rule R27). -/
def Writable (q : Req) : Prop := ∀ p, q ≠ .write .temperature p

/-- Everything a command can do: it is pure; or its first read fails, is not answered or is cut off by reset; or it responds after one
read; or it makes a second request, which completes, fails, is not answered or is cut off. -/
theorem runShape_cases {P : State → Prop} (x : Shape) (s : State)
    (pure : ∀ r, x = .pure r → P (respond r s))
    (firstFails : ∀ e l, P (raiseTfail e .configuration false (failReq (.read .configuration) l (beginTurn s))))
    (firstSilent : ∀ c, P (hangReq (.read .configuration) c (beginTurn s)))
    (firstReset : ∀ c, P (blockReset (hangReq (.read .configuration) c (beginTurn s))))
    (oneRead : ∀ r, rspLegal (rspWord r) = true → P (respond r (afterCfgRead s)))
    (second : ∀ q, Writable q → ∀ r, rspLegal (rspWord r) = true →
      P (respond r (completeReq q (beginTurn (afterCfgRead s)))))
    (secondFails : ∀ q, Writable q → ∀ e l,
      P (raiseTfail e (reqReg q) (reqIsWrite q) (failReq q l (beginTurn (afterCfgRead s)))))
    (secondSilent : ∀ q, Writable q → ∀ c, P (hangReq q c (beginTurn (afterCfgRead s))))
    (secondReset : ∀ q, Writable q → ∀ c, P (blockReset (hangReq q c (beginTurn (afterCfgRead s)))))
    (writable : ∀ r c, x = .writeCount r c → r ≠ .temperature) : P (runShape x s) := by
  have hr : ∀ r, Writable (.read r) := fun r p => by simp
  cases x with
  | pure r => exact pure r rfl
  | getField f => exact memRead_cases _ _ _ (fun p => oneRead _ (rspLegal_present _)) firstFails firstSilent firstReset
  | readCount r =>
    exact memRead_cases _ _ _ (fun p => memRead_cases _ _ _ (fun p => second _ (hr r) _ (rspLegal_dCnt _))
      (fun e l => secondFails (.read r) (hr r) e l) (fun c => secondSilent (.read r) (hr r) c)
      (fun c => secondReset (.read r) (hr r) c)) firstFails firstSilent firstReset
  | writeCount r c =>
    have hw : ∀ p, Writable (.write r p) := fun p p' => by simp [writable r c rfl]
    exact memRead_cases _ _ _ (fun p => memWrite_cases _ _ _ _ (second (.write r _) (hw _) _ (rspLegal_present _))
      (fun e l => secondFails (.write r _) (hw _) e l) (fun c => secondSilent (.write r _) (hw _) c)
      (fun c => secondReset (.write r _) (hw _) c)) firstFails firstSilent firstReset
  | setField f v =>
    have hw : ∀ p, Writable (.write .configuration p) := fun p p' => by simp
    exact memRead_cases _ _ _ (fun p => memWrite_cases _ _ _ _
      (second (.write .configuration _) (hw _) _ (rspLegal_present _))
      (fun e l => secondFails (.write .configuration _) (hw _) e l)
      (fun c => secondSilent (.write .configuration _) (hw _) c)
      (fun c => secondReset (.write .configuration _) (hw _) c)) firstFails firstSilent firstReset

end Sys2Proof.Machine
end

