-- ==== Sys2Proof/Laws/PerInstr.lean ====
section
/-! SUPPORT. Statements about the instruction as syntax, constructor by constructor. -/

/-- The command word carries the instruction's own code in its `op` field, and that code is no reserved one (rules R40, R43, R44). -/
def Sys2Proof.Laws.OwnCode.Statement (i : Sys2Proof.Instr) : Prop :=
  Sys2Proof.opOf (Sys2Proof.encode i) = i.opCode ∧
    ∃ j, Sys2Proof.decodeOp i.opCode (Sys2Proof.argOf (Sys2Proof.encode i)) = .ok j ∧ j.opCode = i.opCode

theorem Sys2Proof.Laws.OwnCode.decN (byte0 byte1 : Sys2Proof.Byte) :
    Sys2Proof.Laws.OwnCode.Statement (.decN byte0 byte1) :=
  ⟨Sys2Proof.opOf_encode _, _, rfl, rfl⟩

theorem Sys2Proof.Laws.OwnCode.decE (byte0 byte1 : Sys2Proof.Byte) :
    Sys2Proof.Laws.OwnCode.Statement (.decE byte0 byte1) :=
  ⟨Sys2Proof.opOf_encode _, _, rfl, rfl⟩

theorem Sys2Proof.Laws.OwnCode.encN (c : Int) :
    Sys2Proof.Laws.OwnCode.Statement (.encN c) :=
  ⟨Sys2Proof.opOf_encode _, _, rfl, rfl⟩

theorem Sys2Proof.Laws.OwnCode.encE (c : Int) :
    Sys2Proof.Laws.OwnCode.Statement (.encE c) :=
  ⟨Sys2Proof.opOf_encode _, _, rfl, rfl⟩

theorem Sys2Proof.Laws.OwnCode.c2f (pin : Bool) (n : Int) :
    Sys2Proof.Laws.OwnCode.Statement (.c2f pin n) :=
  ⟨Sys2Proof.opOf_encode _, _, rfl, rfl⟩

theorem Sys2Proof.Laws.OwnCode.fgetSd (img : Sys2Proof.Pair) :
    Sys2Proof.Laws.OwnCode.Statement (.fgetSd img) :=
  ⟨Sys2Proof.opOf_encode _, _, rfl, rfl⟩

theorem Sys2Proof.Laws.OwnCode.fgetTm (img : Sys2Proof.Pair) :
    Sys2Proof.Laws.OwnCode.Statement (.fgetTm img) :=
  ⟨Sys2Proof.opOf_encode _, _, rfl, rfl⟩

theorem Sys2Proof.Laws.OwnCode.fgetPol (img : Sys2Proof.Pair) :
    Sys2Proof.Laws.OwnCode.Statement (.fgetPol img) :=
  ⟨Sys2Proof.opOf_encode _, _, rfl, rfl⟩

theorem Sys2Proof.Laws.OwnCode.fgetFq (img : Sys2Proof.Pair) :
    Sys2Proof.Laws.OwnCode.Statement (.fgetFq img) :=
  ⟨Sys2Proof.opOf_encode _, _, rfl, rfl⟩

theorem Sys2Proof.Laws.OwnCode.fgetOs (img : Sys2Proof.Pair) :
    Sys2Proof.Laws.OwnCode.Statement (.fgetOs img) :=
  ⟨Sys2Proof.opOf_encode _, _, rfl, rfl⟩

theorem Sys2Proof.Laws.OwnCode.fgetEm (img : Sys2Proof.Pair) :
    Sys2Proof.Laws.OwnCode.Statement (.fgetEm img) :=
  ⟨Sys2Proof.opOf_encode _, _, rfl, rfl⟩

theorem Sys2Proof.Laws.OwnCode.fgetAl (img : Sys2Proof.Pair) :
    Sys2Proof.Laws.OwnCode.Statement (.fgetAl img) :=
  ⟨Sys2Proof.opOf_encode _, _, rfl, rfl⟩

theorem Sys2Proof.Laws.OwnCode.fgetCr (img : Sys2Proof.Pair) :
    Sys2Proof.Laws.OwnCode.Statement (.fgetCr img) :=
  ⟨Sys2Proof.opOf_encode _, _, rfl, rfl⟩

theorem Sys2Proof.Laws.OwnCode.fsetSd (img : Sys2Proof.Pair) (v : BitVec 16) :
    Sys2Proof.Laws.OwnCode.Statement (.fsetSd img v) :=
  ⟨Sys2Proof.opOf_encode _, _, rfl, rfl⟩

theorem Sys2Proof.Laws.OwnCode.fsetTm (img : Sys2Proof.Pair) (v : BitVec 16) :
    Sys2Proof.Laws.OwnCode.Statement (.fsetTm img v) :=
  ⟨Sys2Proof.opOf_encode _, _, rfl, rfl⟩

theorem Sys2Proof.Laws.OwnCode.fsetPol (img : Sys2Proof.Pair) (v : BitVec 16) :
    Sys2Proof.Laws.OwnCode.Statement (.fsetPol img v) :=
  ⟨Sys2Proof.opOf_encode _, _, rfl, rfl⟩

theorem Sys2Proof.Laws.OwnCode.fsetFq (img : Sys2Proof.Pair) (v : BitVec 16) :
    Sys2Proof.Laws.OwnCode.Statement (.fsetFq img v) :=
  ⟨Sys2Proof.opOf_encode _, _, rfl, rfl⟩

theorem Sys2Proof.Laws.OwnCode.ftrigOs (img : Sys2Proof.Pair) :
    Sys2Proof.Laws.OwnCode.Statement (.ftrigOs img) :=
  ⟨Sys2Proof.opOf_encode _, _, rfl, rfl⟩

theorem Sys2Proof.Laws.OwnCode.fsetEm (img : Sys2Proof.Pair) (v : BitVec 16) :
    Sys2Proof.Laws.OwnCode.Statement (.fsetEm img v) :=
  ⟨Sys2Proof.opOf_encode _, _, rfl, rfl⟩

theorem Sys2Proof.Laws.OwnCode.fsetCr (img : Sys2Proof.Pair) (v : BitVec 16) :
    Sys2Proof.Laws.OwnCode.Statement (.fsetCr img v) :=
  ⟨Sys2Proof.opOf_encode _, _, rfl, rfl⟩

theorem Sys2Proof.Laws.OwnCode.rdTemp :
    Sys2Proof.Laws.OwnCode.Statement (.rdTemp) :=
  ⟨Sys2Proof.opOf_encode _, _, rfl, rfl⟩

theorem Sys2Proof.Laws.OwnCode.rdTlow :
    Sys2Proof.Laws.OwnCode.Statement (.rdTlow) :=
  ⟨Sys2Proof.opOf_encode _, _, rfl, rfl⟩

theorem Sys2Proof.Laws.OwnCode.rdThigh :
    Sys2Proof.Laws.OwnCode.Statement (.rdThigh) :=
  ⟨Sys2Proof.opOf_encode _, _, rfl, rfl⟩

theorem Sys2Proof.Laws.OwnCode.wrTlow (c : Int) :
    Sys2Proof.Laws.OwnCode.Statement (.wrTlow c) :=
  ⟨Sys2Proof.opOf_encode _, _, rfl, rfl⟩

theorem Sys2Proof.Laws.OwnCode.wrThigh (c : Int) :
    Sys2Proof.Laws.OwnCode.Statement (.wrThigh c) :=
  ⟨Sys2Proof.opOf_encode _, _, rfl, rfl⟩

theorem Sys2Proof.Laws.OwnCode.cgetSd :
    Sys2Proof.Laws.OwnCode.Statement (.cgetSd) :=
  ⟨Sys2Proof.opOf_encode _, _, rfl, rfl⟩

theorem Sys2Proof.Laws.OwnCode.cgetTm :
    Sys2Proof.Laws.OwnCode.Statement (.cgetTm) :=
  ⟨Sys2Proof.opOf_encode _, _, rfl, rfl⟩

theorem Sys2Proof.Laws.OwnCode.cgetPol :
    Sys2Proof.Laws.OwnCode.Statement (.cgetPol) :=
  ⟨Sys2Proof.opOf_encode _, _, rfl, rfl⟩

theorem Sys2Proof.Laws.OwnCode.cgetFq :
    Sys2Proof.Laws.OwnCode.Statement (.cgetFq) :=
  ⟨Sys2Proof.opOf_encode _, _, rfl, rfl⟩

theorem Sys2Proof.Laws.OwnCode.cgetOs :
    Sys2Proof.Laws.OwnCode.Statement (.cgetOs) :=
  ⟨Sys2Proof.opOf_encode _, _, rfl, rfl⟩

theorem Sys2Proof.Laws.OwnCode.cgetEm :
    Sys2Proof.Laws.OwnCode.Statement (.cgetEm) :=
  ⟨Sys2Proof.opOf_encode _, _, rfl, rfl⟩

theorem Sys2Proof.Laws.OwnCode.cgetAl :
    Sys2Proof.Laws.OwnCode.Statement (.cgetAl) :=
  ⟨Sys2Proof.opOf_encode _, _, rfl, rfl⟩

theorem Sys2Proof.Laws.OwnCode.cgetCr :
    Sys2Proof.Laws.OwnCode.Statement (.cgetCr) :=
  ⟨Sys2Proof.opOf_encode _, _, rfl, rfl⟩

theorem Sys2Proof.Laws.OwnCode.csetSd (v : BitVec 32) :
    Sys2Proof.Laws.OwnCode.Statement (.csetSd v) :=
  ⟨Sys2Proof.opOf_encode _, _, rfl, rfl⟩

theorem Sys2Proof.Laws.OwnCode.csetTm (v : BitVec 32) :
    Sys2Proof.Laws.OwnCode.Statement (.csetTm v) :=
  ⟨Sys2Proof.opOf_encode _, _, rfl, rfl⟩

theorem Sys2Proof.Laws.OwnCode.csetPol (v : BitVec 32) :
    Sys2Proof.Laws.OwnCode.Statement (.csetPol v) :=
  ⟨Sys2Proof.opOf_encode _, _, rfl, rfl⟩

theorem Sys2Proof.Laws.OwnCode.csetFq (v : BitVec 32) :
    Sys2Proof.Laws.OwnCode.Statement (.csetFq v) :=
  ⟨Sys2Proof.opOf_encode _, _, rfl, rfl⟩

theorem Sys2Proof.Laws.OwnCode.osTrig :
    Sys2Proof.Laws.OwnCode.Statement (.osTrig) :=
  ⟨Sys2Proof.opOf_encode _, _, rfl, rfl⟩

theorem Sys2Proof.Laws.OwnCode.csetEm (v : BitVec 32) :
    Sys2Proof.Laws.OwnCode.Statement (.csetEm v) :=
  ⟨Sys2Proof.opOf_encode _, _, rfl, rfl⟩

theorem Sys2Proof.Laws.OwnCode.csetCr (v : BitVec 32) :
    Sys2Proof.Laws.OwnCode.Statement (.csetCr v) :=
  ⟨Sys2Proof.opOf_encode _, _, rfl, rfl⟩
end

