-- ==== Sys2Proof/Tests/Slice0.lean ====
section
/-! SUPPORT. The model's own tests: well-formedness, decoding, one step for each command with the values of spec/95_test_vectors.md,
and for every statement with hypotheses a state and operands that meet them. -/

namespace Sys2Proof.Machine.Tests

open Sys2Proof Sys2Proof.Machine

/-! ### Helpers -/

/-- The device 0x48 with its four registers listed: Temperature, Configuration, T_LOW, T_HIGH. -/
def sensor (t c l h : Pair) : Memory :=
  [(36864, byte0 t), (36865, byte1 t), (36866, byte0 c), (36867, byte1 c),
   (36868, byte0 l), (36869, byte1 l), (36870, byte0 h), (36871, byte1 h)]

/-- An idle block with that sensor and the coming turns. -/
def bench (t c l h : Pair) (turns : List Turn) : State :=
  { State.reset with mem := sensor t c l h, turns := turns }

/-- The start state of program P1. -/
def quietBench (n : Nat) : State := bench 0x1900#16 0x60A0#16 0x4B00#16 0x5000#16 (List.replicate n quietTurn)

/-- A turn in which the transaction fails and nothing lands. -/
def failTurn (e : Byte) : Turn := ⟨[], .fail e false⟩

/-- The command word `w` answers the response word `r`, with `n` transactions. -/
def answers (s : State) (w r n : Nat) : Bool :=
  match step (s.withFetchWord 40 w) with
  | .next t => t.rspPending && t.rsp.toNat == r && t.bus.length == n
  | _ => false

/-- The command word `w` answers the response word `r` and leaves `p` in a register. -/
def leaves (s : State) (w r : Nat) (reg : SensorReg) (p : Pair) : Bool :=
  match step (s.withFetchWord 40 w) with
  | .next t => t.rspPending && t.rsp.toNat == r && readPair t.mem .x48 reg == p
  | _ => false

/-! ### Well-formedness: an ill-formed term for each check -/

theorem test_wellFormed_celsius_too_large :
    (Instr.encN 2147483648).wellFormed = false ∧ (Instr.encE 2147483648).wellFormed = false ∧
    (Instr.wrTlow 2147483648).wellFormed = false ∧ (Instr.wrThigh 2147483648).wellFormed = false := by decide

theorem test_wellFormed_celsius_too_small :
    (Instr.encN (-2147483649)).wellFormed = false ∧ (Instr.wrThigh (-2147483649)).wellFormed = false := by decide

theorem test_wellFormed_count :
    (Instr.c2f true 32768).wellFormed = false ∧ (Instr.c2f false (-32769)).wellFormed = false := by decide

/-! ### Decoding: words written out from rules R40, R42, R43 and the examples of rule R47 -/

theorem test_decode_codec :
    decode 0x000000190F#40 = .ok (.decN 0x19#8 0x0F#8) ∧ decode 0x01FFFF0C80#40 = .ok (.decE 0x0C#8 0x80#8) ∧
    decode 0x02FFE70000#40 = .ok (.encN (-1638400)) ∧ decode 0x0300960000#40 = .ok (.encE 9830400) ∧
    decode 0x040001FE70#40 = .ok (.c2f true (-400)) ∧ decode 0x04FFFE0190#40 = .ok (.c2f false 400) := by decide

theorem test_decode_fget :
    decode 0x100000B565#40 = .ok (.fgetSd 0xB565#16) ∧ decode 0x110000B565#40 = .ok (.fgetTm 0xB565#16) ∧
    decode 0x120000B565#40 = .ok (.fgetPol 0xB565#16) ∧ decode 0x130000B565#40 = .ok (.fgetFq 0xB565#16) ∧
    decode 0x140000B565#40 = .ok (.fgetOs 0xB565#16) ∧ decode 0x150000B565#40 = .ok (.fgetEm 0xB565#16) ∧
    decode 0x160000B565#40 = .ok (.fgetAl 0xB565#16) ∧ decode 0x17FFFF60A0#40 = .ok (.fgetCr 0x60A0#16) := by decide

theorem test_decode_fset :
    decode 0x200003B565#40 = .ok (.fsetSd 0xB565#16 3#16) ∧ decode 0x210001B565#40 = .ok (.fsetTm 0xB565#16 1#16) ∧
    decode 0x228000B565#40 = .ok (.fsetPol 0xB565#16 0x8000#16) ∧
    decode 0x230005B565#40 = .ok (.fsetFq 0xB565#16 5#16) ∧ decode 0x24FFFF3565#40 = .ok (.ftrigOs 0x3565#16) ∧
    decode 0x250001B565#40 = .ok (.fsetEm 0xB565#16 1#16) ∧ decode 0x27000360A0#40 = .ok (.fsetCr 0x60A0#16 3#16) := by decide

theorem test_decode_rd_wr :
    decode 0x4000000000#40 = .ok .rdTemp ∧ decode 0x42FFFFFFFF#40 = .ok .rdTlow ∧ decode 0x4300000001#40 = .ok .rdThigh ∧
    decode 0x52FFF60000#40 = .ok (.wrTlow (-655360)) ∧ decode 0x5300500000#40 = .ok (.wrThigh 5242880) := by decide

theorem test_decode_cget :
    decode 0x6000000000#40 = .ok .cgetSd ∧ decode 0x6100000000#40 = .ok .cgetTm ∧ decode 0x6200000000#40 = .ok .cgetPol ∧
    decode 0x6300000000#40 = .ok .cgetFq ∧ decode 0x6400000000#40 = .ok .cgetOs ∧ decode 0x6500000000#40 = .ok .cgetEm ∧
    decode 0x6600000000#40 = .ok .cgetAl ∧ decode 0x6712345678#40 = .ok .cgetCr := by decide

theorem test_decode_cset :
    decode 0x7000000001#40 = .ok (.csetSd 1#32) ∧ decode 0x7100000001#40 = .ok (.csetTm 1#32) ∧
    decode 0x7280000000#40 = .ok (.csetPol 0x80000000#32) ∧ decode 0x7300000005#40 = .ok (.csetFq 5#32) ∧
    decode 0x7412345678#40 = .ok .osTrig ∧ decode 0x7500000001#40 = .ok (.csetEm 1#32) ∧
    decode 0x77FFFFFFFF#40 = .ok (.csetCr 0xFFFFFFFF#32) := by decide

/-- The holes of rule R44 and the table of section 2.6. -/
theorem test_decode_reserved :
    decode 0x0500000000#40 = .error (.reservedOp 0x05#8) ∧ decode 0x26DEADBEEF#40 = .error (.reservedOp 0x26#8) ∧
    decode 0x4100000000#40 = .error (.reservedOp 0x41#8) ∧ decode 0x5000190000#40 = .error (.reservedOp 0x50#8) ∧
    decode 0x51000060A0#40 = .error (.reservedOp 0x51#8) ∧ decode 0x7600000001#40 = .error (.reservedOp 0x76#8) ∧
    decode 0xFF00000000#40 = .error (.reservedOp 0xFF#8) := by decide

theorem test_decodeTableWord :
    decodeTableWord 40 0x7700000003 = some (.csetCr 3#32) ∧ decodeTableWord 40 0x7600000001 = none := by decide

/-- Every row of the map decodes, and runs as the first command after reset (rule R173). -/
theorem test_every_row_runs :
    ∀ r ∈ opTable, (decodeTableWord 40 (r.op.toNat * 2 ^ 32)).isSome = true ∧
      (match step (State.reset.withFetchWord 40 (r.op.toNat * 2 ^ 32)) with
        | .next _ => true
        | _ => false) = true := by decide

/-- The examples of rule R47. -/
theorem test_assemble :
    ((findRow "ENC.N").bind fun r => assemble r (.degrees 25 1)) = some 0x0200190000#40 ∧
    ((findRow "C2F").bind fun r => assemble r .absent) = some 0x0400000000#40 ∧
    ((findRow "FSET.CR").bind fun r => assemble r (.bytesValue 0x60 0xA0 3)) = some 0x27000360A0#40 ∧
    ((findRow "ENC.N").bind fun r => assemble r (.degrees 32768 1)) = none := by decide

/-! ### One step of each command: section 2.1 to 2.5, no transaction -/

theorem test_decN :
    answers (quietBench 0) 0x0000000C87 0x100000000C8 0 = true ∧
    answers (quietBench 0) 0x0000008000 0x100FFFFF800 0 = true ∧
    answers (quietBench 0) 0x000000FFFF 0x0 0 = true := by decide

theorem test_decE :
    answers (quietBench 0) 0x010000190F 0x10000000321 0 = true ∧
    answers (quietBench 0) 0x0100008000 0x100FFFFF000 0 = true ∧
    answers (quietBench 0) 0x010000FFFE 0x100FFFFFFFF 0 = true ∧
    answers (quietBench 0) 0x010000FFFF 0x0 0 = true := by decide

theorem test_encN :
    answers (quietBench 0) 0x02FFFFEFFF 0x1000000FFF0 0 = true ∧
    answers (quietBench 0) 0x02FFFFF852 0x10000000000 0 = true ∧
    answers (quietBench 0) 0x0200C80000 0x10000009600 0 = true ∧
    answers (quietBench 0) 0x0280000000 0x1000000C900 0 = true := by decide

theorem test_encE :
    answers (quietBench 0) 0x03FFE6F800 0x1000000F380 0 = true ∧
    answers (quietBench 0) 0x030064FD70 0x10000003278 0 = true ∧
    answers (quietBench 0) 0x037FFFFFFF 0x10000004B00 0 = true ∧
    answers (quietBench 0) 0x03FFC8FFFF 0x1000000E480 0 = true := by decide

theorem test_c2f :
    answers (quietBench 0) 0x0400010190 0x10000001810 0 = true ∧
    answers (quietBench 0) 0x040001FD80 0x100FFFFF380 0 = true ∧
    answers (quietBench 0) 0x0400018000 0x100FFFB8A00 0 = true ∧
    answers (quietBench 0) 0x040000FE70 0x0 0 = true := by decide

theorem test_fgetSd :
    answers (quietBench 0) 0x100000B565 0x10000000001 0 = true ∧
    answers (quietBench 0) 0x100000FFFF 0x10000000001 0 = true ∧
    answers (quietBench 0) 0x100000600F 0x10000000000 0 = true := by decide

theorem test_fgetTm :
    answers (quietBench 0) 0x110000B565 0x10000000000 0 = true ∧
    answers (quietBench 0) 0x110000FFFF 0x10000000001 0 = true ∧
    answers (quietBench 0) 0x110000600F 0x10000000000 0 = true := by decide

theorem test_fgetPol :
    answers (quietBench 0) 0x120000B565 0x10000000001 0 = true ∧
    answers (quietBench 0) 0x120000FFFF 0x10000000001 0 = true ∧
    answers (quietBench 0) 0x120000600F 0x10000000000 0 = true := by decide

theorem test_fgetFq :
    answers (quietBench 0) 0x130000B565 0x10000000002 0 = true ∧
    answers (quietBench 0) 0x130000FFFF 0x10000000003 0 = true ∧
    answers (quietBench 0) 0x130000600F 0x10000000000 0 = true := by decide

theorem test_fgetOs :
    answers (quietBench 0) 0x140000B565 0x10000000001 0 = true ∧
    answers (quietBench 0) 0x140000FFFF 0x10000000001 0 = true ∧
    answers (quietBench 0) 0x140000600F 0x10000000000 0 = true := by decide

theorem test_fgetEm :
    answers (quietBench 0) 0x150000B565 0x10000000000 0 = true ∧
    answers (quietBench 0) 0x150000FFFF 0x10000000001 0 = true ∧
    answers (quietBench 0) 0x150000600F 0x10000000000 0 = true := by decide

theorem test_fgetAl :
    answers (quietBench 0) 0x160000B565 0x10000000001 0 = true ∧
    answers (quietBench 0) 0x160000FFFF 0x10000000001 0 = true ∧
    answers (quietBench 0) 0x160000600F 0x10000000000 0 = true := by decide

theorem test_fgetCr :
    answers (quietBench 0) 0x170000B565 0x10000000001 0 = true ∧
    answers (quietBench 0) 0x170000FFFF 0x10000000003 0 = true ∧
    answers (quietBench 0) 0x170000600F 0x10000000000 0 = true := by decide

theorem test_fsetSd :
    answers (quietBench 0) 0x200000B565 0x1000000B465 0 = true ∧
    answers (quietBench 0) 0x200003B565 0x1000000B565 0 = true := by decide

theorem test_fsetTm :
    answers (quietBench 0) 0x210001B565 0x1000000B765 0 = true := by decide

theorem test_fsetPol :
    answers (quietBench 0) 0x220000B565 0x1000000B165 0 = true := by decide

theorem test_fsetFq :
    answers (quietBench 0) 0x230005B565 0x1000000AD65 0 = true ∧
    answers (quietBench 0) 0x230000FFFF 0x1000000E7FF 0 = true := by decide

theorem test_ftrigOs :
    answers (quietBench 0) 0x2400003565 0x1000000B565 0 = true ∧
    answers (quietBench 0) 0x240000B565 0x1000000B565 0 = true := by decide

theorem test_fsetEm :
    answers (quietBench 0) 0x250001B565 0x1000000B575 0 = true ∧
    answers (quietBench 0) 0x250002B565 0x1000000B565 0 = true := by decide

theorem test_fsetCr :
    answers (quietBench 0) 0x270006B565 0x1000000B5A5 0 = true ∧
    answers (quietBench 0) 0x270003FF3F 0x1000000FFFF 0 = true := by decide

/-! ### One step of each sequenced command: section 2.7 and the programs of part 3 -/

theorem test_rdTemp :
    answers (quietBench 2) 0x4000000000 0x10000000190 2 = true ∧
    answers (bench 0x1900#16 0x60B0#16 0#16 0#16 [quietTurn, quietTurn]) 0x4000000000 0x10000000320 2 = true ∧
    answers (bench 0xFFFF#16 0xFFFF#16 0#16 0#16 [quietTurn, quietTurn]) 0x4000000000 0x0 2 = true := by decide

theorem test_rdTemp_fails :
    answers (bench 0#16 0#16 0#16 0#16 [failTurn 0x07#8, quietTurn]) 0x4000000000 0x20700000001 1 = true ∧
    answers (bench 0#16 0#16 0#16 0#16 [quietTurn, failTurn 0x00#8]) 0x4000000000 0x20000000000 2 = true := by decide

theorem test_rdTlow :
    answers (quietBench 2) 0x4200000000 0x100000004B0 2 = true ∧
    answers (bench 0#16 0x60B0#16 0x4B00#16 0#16 [quietTurn, quietTurn]) 0x4200000000 0x10000000960 2 = true := by decide

theorem test_rdThigh :
    answers (quietBench 2) 0x4300000000 0x10000000500 2 = true ∧
    answers (bench 0#16 0x60A0#16 0#16 0x9600#16 [quietTurn, quietTurn]) 0x4300000000 0x100FFFFF960 2 = true := by decide

theorem test_wrTlow :
    leaves (quietBench 2) 0x52FFF60000 0x10000000000 .tLow 0xF600#16 = true ∧
    leaves (bench 0#16 0x60B0#16 0#16 0#16 [quietTurn, quietTurn]) 0x52004B0000 0x10000000000 .tLow 0x2580#16 = true := by decide

/-- Program P4, steps 2 and 3: both values the register may hold after a failed write (U3). -/
theorem test_wrTlow_fails :
    leaves (bench 0#16 0x60A0#16 0x4B00#16 0#16 [failTurn 0x07#8]) 0x52FFF60000 0x20700000001 .tLow 0x4B00#16 = true ∧
    leaves (bench 0#16 0x60A0#16 0x4B00#16 0#16 [quietTurn, failTurn 0x2A#8])
      0x52FFF60000 0x22A00000102 .tLow 0x4B00#16 = true ∧
    leaves (bench 0#16 0x60A0#16 0x4B00#16 0#16 [quietTurn, ⟨[], .fail 0x2A#8 true⟩])
      0x52FFF60000 0x22A00000102 .tLow 0xF600#16 = true := by decide

theorem test_wrThigh :
    leaves (quietBench 2) 0x5300C80000 0x10000000000 .tHigh 0x9600#16 = true ∧
    leaves (bench 0#16 0x60B0#16 0#16 0#16 [quietTurn, quietTurn]) 0x5300500000 0x10000000000 .tHigh 0x2800#16 = true := by decide

theorem test_cgetSd :
    answers (bench 0#16 0xB565#16 0#16 0#16 [quietTurn]) 0x6000000000 0x10000000001 1 = true ∧
    answers (bench 0#16 0xFFFF#16 0#16 0#16 [quietTurn]) 0x6000000000 0x10000000001 1 = true := by decide

theorem test_cgetTm :
    answers (bench 0#16 0xB565#16 0#16 0#16 [quietTurn]) 0x6100000000 0x10000000000 1 = true ∧
    answers (bench 0#16 0xFFFF#16 0#16 0#16 [quietTurn]) 0x6100000000 0x10000000001 1 = true := by decide

theorem test_cgetPol :
    answers (bench 0#16 0xB565#16 0#16 0#16 [quietTurn]) 0x6200000000 0x10000000001 1 = true ∧
    answers (bench 0#16 0xFFFF#16 0#16 0#16 [quietTurn]) 0x6200000000 0x10000000001 1 = true := by decide

theorem test_cgetFq :
    answers (bench 0#16 0xB565#16 0#16 0#16 [quietTurn]) 0x6300000000 0x10000000002 1 = true ∧
    answers (bench 0#16 0xFFFF#16 0#16 0#16 [quietTurn]) 0x6300000000 0x10000000003 1 = true := by decide

theorem test_cgetOs :
    answers (bench 0#16 0xB565#16 0#16 0#16 [quietTurn]) 0x6400000000 0x10000000001 1 = true ∧
    answers (bench 0#16 0xFFFF#16 0#16 0#16 [quietTurn]) 0x6400000000 0x10000000001 1 = true := by decide

theorem test_cgetEm :
    answers (bench 0#16 0xB565#16 0#16 0#16 [quietTurn]) 0x6500000000 0x10000000000 1 = true ∧
    answers (bench 0#16 0xFFFF#16 0#16 0#16 [quietTurn]) 0x6500000000 0x10000000001 1 = true := by decide

theorem test_cgetAl :
    answers (bench 0#16 0xB565#16 0#16 0#16 [quietTurn]) 0x6600000000 0x10000000001 1 = true ∧
    answers (bench 0#16 0xFFFF#16 0#16 0#16 [quietTurn]) 0x6600000000 0x10000000001 1 = true := by decide

theorem test_cgetCr :
    answers (bench 0#16 0xB565#16 0#16 0#16 [quietTurn]) 0x6700000000 0x10000000001 1 = true ∧
    answers (bench 0#16 0xFFFF#16 0#16 0#16 [quietTurn]) 0x6700000000 0x10000000003 1 = true := by decide

theorem test_cgetFq_fails :
    answers (bench 0#16 0#16 0#16 0#16 [failTurn 0x11#8]) 0x6300000000 0x21100000001 1 = true := by decide

theorem test_csetSd :
    leaves (quietBench 2) 0x7000000001 0x10000000000 .configuration 0x61A0#16 = true ∧
    leaves (bench 0#16 0xE1A0#16 0#16 0#16 [quietTurn, quietTurn]) 0x7000000000 0x10000000000 .configuration 0xE0A0#16 = true := by
  decide

theorem test_csetTm :
    leaves (bench 0#16 0xB565#16 0#16 0#16 [quietTurn, quietTurn]) 0x7100000001 0x10000000000 .configuration 0xB765#16 = true ∧
    answers (quietBench 0 |> fun s => { s with turns := [failTurn 0x03#8] }) 0x7100000001 0x20300000001 1 = true := by decide

theorem test_csetPol :
    leaves (quietBench 2) 0x7200000001 0x10000000000 .configuration 0x64A0#16 = true ∧
    answers (quietBench 0 |> fun s => { s with turns := [quietTurn, failTurn 0x03#8] }) 0x7200000001 0x20300000101 2 = true := by
  decide

theorem test_csetFq : leaves (quietBench 2) 0x7300000005 0x10000000000 .configuration 0x68A0#16 = true := by decide

theorem test_osTrig :
    leaves (bench 0#16 0x61A0#16 0#16 0#16 [quietTurn, quietTurn]) 0x7400000000 0x10000000000 .configuration 0xE1A0#16 = true ∧
    leaves (bench 0#16 0xE1A0#16 0#16 0#16 [quietTurn, quietTurn]) 0x7412345678 0x10000000000 .configuration 0xE1A0#16 = true := by
  decide

theorem test_csetEm : leaves (quietBench 2) 0x7500000001 0x10000000000 .configuration 0x60B0#16 = true := by decide

theorem test_csetCr :
    leaves (quietBench 2) 0x7700000003 0x10000000000 .configuration 0x60E0#16 = true ∧
    leaves (quietBench 2) 0x77FFFFFFFF 0x10000000000 .configuration 0x60E0#16 = true := by decide

/-- Rule R174: what another master writes to the One-shot bit between the read and the write is lost. -/
theorem test_lost_update :
    leaves (bench 0#16 0x60A0#16 0#16 0#16 [quietTurn, ⟨[⟨.configuration, 0xE0A0#16⟩], .ok⟩])
      0x7700000003 0x10000000000 .configuration 0x60E0#16 = true := by decide

/-- Section 2.6. -/
theorem test_reserved :
    answers (quietBench 0) 0x26DEADBEEF 0x40000000000 0 = true ∧
    answers (quietBench 0) 0x51000060A0 0x40000000000 0 = true := by decide

/-- Rule R157: after a failure has been taken the next command runs normally. -/
theorem test_next_command_after_failure :
    (match step { State.reset with cmds := [0x7600000001#40, 0x0400010190#40] } with
      | .next t => match step t with
        | .next u => match step u with
          | .next v => v.taken.length == 1 && v.rsp.toNat == 0x10000001810
          | _ => false
        | _ => false
      | _ => false) = true := by decide

/-! ### Witnesses: for every statement with hypotheses, what meets them -/

theorem witness_DecodeOfEncode :
    (Instr.wrTlow (-2147483648)).wellFormed = true ∧ (Instr.encN 2147483647).wellFormed = true ∧
    (Instr.c2f true (-32768)).wellFormed = true ∧ (Instr.c2f false 32767).wellFormed = true ∧
    Instr.rdTemp.wellFormed = true := by decide

/-- A pair word with every ignored bit set, and a value word with none to ignore; both rows are in the map. -/
theorem witness_EncodeOfDecode :
    decode 0x00FFFF0C80#40 = .ok (.decN 0x0C#8 0x80#8) ∧
    (⟨"DEC.N", 0x00#8, .pair, .cnt, []⟩ : OpRow) ∈ opTable ∧ opOf 0x00FFFF0C80#40 = 0x00#8 ∧
    encode (.decN 0x0C#8 0x80#8) = 0x0000000C80#40 ∧
    decode 0x77FFFFFFFF#40 = .ok (.csetCr 0xFFFFFFFF#32) ∧
    (⟨"CSET.CR", 0x77#8, .val, .zero, [(false, .configuration), (true, .configuration)]⟩ : OpRow) ∈ opTable := by decide

/-- One line for each argument format, at the ends of the ranges; a number of degrees, and the word `absent`. -/
theorem witness_AssembledLineEncodes :
    ((findRow "DEC.E").bind fun r => assemble r (.bytes 255 0)) = some 0x010000FF00#40 ∧
    ((findRow "WR.TLOW").bind fun r => assemble r (.celsius (-2147483648))) = some 0x5280000000#40 ∧
    ((findRow "ENC.E").bind fun r => assemble r (.degrees (-1) 3)) = some 0x03FFFFAAAB#40 ∧
    ((findRow "C2F").bind fun r => assemble r (.count (-32768))) = some 0x0400018000#40 ∧
    ((findRow "C2F").bind fun r => assemble r .absent) = some 0x0400000000#40 ∧
    ((findRow "FGET.SD").bind fun r => assemble r (.bytes 0 255)) = some 0x10000000FF#40 ∧
    ((findRow "FSET.SD").bind fun r => assemble r (.bytesValue 0 255 65535)) = some 0x20FFFF00FF#40 ∧
    ((findRow "CSET.SD").bind fun r => assemble r (.value 4294967295)) = some 0x70FFFFFFFF#40 ∧
    ((findRow "CGET.CR").bind fun r => assemble r .nothing) = some 0x6700000000#40 := by decide

/-- The converse: commands with the code of a row of the map, among them C2F with and without a count. -/
theorem witness_AssembledLineEncodes_converse :
    (⟨"C2F", 0x04#8, .cnt, .fah, []⟩ : OpRow) ∈ opTable ∧ (Instr.c2f true (-32768)).wellFormed = true ∧
    (Instr.c2f true (-32768)).opCode = 0x04#8 ∧ (Instr.c2f false 0).wellFormed = true ∧
    (∀ n, Instr.c2f true (-32768) = .c2f false n → n = 0) ∧ (∀ n, Instr.c2f false 0 = .c2f false n → n = 0) := by
  refine ⟨by decide, by decide, by decide, by decide, fun n h => by simp at h, fun n h => by simpa using h.symm⟩

theorem witness_C2fCommandResponds :
    isCount (-32768) = true ∧ isCount 32767 = true ∧ isCount 0 = true := by decide

theorem witness_LowBitsIgnored :
    0x190F#16 ≠ 0xFFFF#16 ∧ 0x1900#16 ≠ 0xFFFF#16 ∧ (0x190F#16).toNat / 16 = (0x1900#16).toNat / 16 ∧
    0xFFFE#16 ≠ 0xFFFF#16 ∧ 0xFFF8#16 ≠ 0xFFFF#16 ∧ (0xFFFE#16).toNat / 8 = (0xFFF8#16).toNat / 8 := by decide

theorem witness_EncCommandsRespond :
    isCelsiusIn (-2147483648) = true ∧ isCelsiusIn 2147483647 = true ∧ isCelsiusIn (-4095) = true := by decide

theorem witness_QuantTruncatesTowardZero :
    (0 ≤ (4095 : Int) ∧ quant 4095 = 0) ∧ ((-4095 : Int) < 0 ∧ quant (-4095) = 0) ∧
    ((-4097 : Int) < 0 ∧ quant (-4097) = -1) := by decide

/-- The boundary of the two clauses lies between 2047 and 2048 steps. -/
theorem witness_EncodeThenDecode :
    quant (clampCelsius 8384512) = 2047 ∧ 2048 ≤ quant (clampCelsius 8388608) ∧ quant (clampCelsius 9830400) = 2400 := by decide

/-- The boundaries of the three clauses. -/
theorem witness_DecodeThenEncode :
    decodeTemp 0x4B00#16 true = some 2400#16 ∧ decodeTemp 0x4B08#16 true = some 2401#16 ∧
    decodeTemp 0xC900#16 false = some 0xFC90#16 ∧ (0xFC90#16).toInt = -880 ∧
    decodeTemp 0xC8F0#16 false = some 0xFC8F#16 ∧ (0xFC8F#16).toInt = -881 := by decide

theorem witness_FgetCommandsRespond : (0x10#8, Instr.fgetSd, CfgField.sd) ∈ imageGetters := by simp [imageGetters]

theorem witness_FsetCommandsRespond : (0x20#8, Instr.fsetSd, CfgField.sd) ∈ imageSetters := by simp [imageSetters]

theorem witness_FieldLaws : CfgField.cr ≠ CfgField.sd := by decide

theorem quietBench_quiet : Quiet 4 (quietBench 4) ∧ Quiet 3 (quietBench 3) := by unfold Quiet; decide

theorem quietBench_answered : Answered 2 (quietBench 2) ∧ Answered 1 (quietBench 1) := by unfold Answered; decide

theorem quietBench_wf : Memory.wf (quietBench 2).mem = true ∧ Memory.wf (quietBench 4).mem = true := by decide

theorem witness_RdCommandsComplete :
    (0x40#8, Instr.rdTemp, SensorReg.temperature) ∈ countReaders ∧ Answered 2 (quietBench 2) :=
  ⟨by simp [countReaders], quietBench_answered.1⟩

theorem witness_WrCommandsComplete :
    (0x53#8, Instr.wrThigh, SensorReg.tHigh) ∈ thresholdWriters ∧ isCelsiusIn (-2147483648) = true ∧
      Memory.wf (quietBench 2).mem = true ∧ Answered 2 (quietBench 2) :=
  ⟨by simp [thresholdWriters], by decide, quietBench_wf.1, quietBench_answered.1⟩

theorem witness_CgetCommandsComplete :
    (0x66#8, Instr.cgetAl, CfgField.al) ∈ sensorGetters ∧ Answered 1 (quietBench 1) :=
  ⟨by simp [sensorGetters], quietBench_answered.2⟩

theorem witness_CsetCommandsComplete :
    (0x77#8, Instr.csetCr, CfgField.cr) ∈ sensorSetters ∧ Memory.wf (quietBench 2).mem = true ∧ Answered 2 (quietBench 2) :=
  ⟨by simp [sensorSetters], quietBench_wf.1, quietBench_answered.1⟩

theorem witness_OsTrigCompletes : Memory.wf (quietBench 2).mem = true ∧ Answered 2 (quietBench 2) :=
  ⟨quietBench_wf.1, quietBench_answered.1⟩

/-- A block whose first transaction fails, is never answered, or is cut off. -/
def firstTurn (r : Reply) : State := bench 0x1900#16 0x60A0#16 0x4B00#16 0x5000#16 [⟨[], r⟩]

/-- A block whose second transaction ends so. -/
def secondTurn (r : Reply) : State := bench 0x1900#16 0x60A0#16 0x4B00#16 0x5000#16 [quietTurn, ⟨[], r⟩]

/-- The first transaction fails: a code at each end of its range. -/
theorem witness_TransportFailureEndsCommand_first :
    Sequenced .rdTemp ∧ Sequenced (.csetCr 3#32) ∧ ((firstTurn (.fail 0x00#8 false)).turnAt 0).reply = .fail 0x00#8 false ∧
    ((firstTurn (.fail 0xFF#8 false)).turnAt 0).reply = .fail 0xFF#8 false := by unfold Sequenced; decide

/-- The second request fails: a write that landed, and a read. -/
theorem witness_TransportFailureEndsCommand_second :
    requestAt (.wrTlow (-655360)) 1#2 (seenNow (secondTurn (.fail 0x2A#8 true)) .configuration) = some (.write .tLow 0xF600#16) ∧
    requestAt .rdTemp 1#2 (seenNow (secondTurn (.fail 0x2A#8 true)) .configuration) = some (.read .temperature) ∧
    ((secondTurn (.fail 0x2A#8 true)).turnAt 0).reply = .ok ∧
    ((secondTurn (.fail 0x2A#8 true)).turnAt 1).reply = .fail 0x2A#8 true := by decide

/-- The first transaction fails, and the second: a read and a write. -/
theorem witness_FailureKeepsHoldRegisters :
    (Sequenced (.csetCr 3#32) ∧ ((firstTurn (.fail 0x07#8 false)).turnAt 0).reply = .fail 0x07#8 false) ∧
    requestAt .rdTlow 1#2 (seenNow (secondTurn (.fail 0x2A#8 false)) .configuration) = some (.read .tLow) ∧
    requestAt .osTrig 1#2 (seenNow (secondTurn (.fail 0x2A#8 false)) .configuration) =
      some (.write .configuration 0xE0A0#16) ∧
    ((secondTurn (.fail 0x2A#8 false)).turnAt 0).reply = .ok ∧
    ((secondTurn (.fail 0x2A#8 false)).turnAt 1).reply = .fail 0x2A#8 false := by unfold Sequenced; decide

theorem witness_TransactionsInOrder :
    (⟨"OS.TRIG", 0x74#8, .none, .zero, [(false, .configuration), (true, .configuration)]⟩ : OpRow) ∈ opTable ∧
      Answered 2 (quietBench 2) := ⟨by decide, quietBench_answered.1⟩

/-- Normal mode at its last count, and extended mode at the clamp. -/
theorem witness_ThresholdReadsBack :
    (Memory.wf (quietBench 4).mem = true ∧ Quiet 4 (quietBench 4) ∧ rawOf 8384512 = 2047) ∧
    (seenNow (bench 0#16 0x60B0#16 0#16 0#16 (List.replicate 4 quietTurn)) .configuration).getLsbD 4 = true ∧ rawOf 9830400 = 2400 :=
  ⟨⟨quietBench_wf.2, quietBench_quiet.1, by decide⟩, by decide, by decide⟩

theorem witness_FieldReadsBack :
    (0x75#8, Instr.csetEm, CfgField.em) ∈ sensorSetters ∧ (0x65#8, Instr.cgetEm, CfgField.em) ∈ sensorGetters ∧
    (0x67#8, Instr.cgetCr, CfgField.cr) ∈ sensorGetters ∧
    Memory.wf (quietBench 3).mem = true ∧ Quiet 3 (quietBench 3) :=
  ⟨by simp [sensorSetters], by simp [sensorGetters], by simp [sensorGetters], by decide, quietBench_quiet.2⟩

/-- Another master sets the One-shot bit between the read and the write. -/
def raced : State := bench 0x1900#16 0x60A0#16 0x4B00#16 0x5000#16 [quietTurn, ⟨[⟨.configuration, 0xE0A0#16⟩], .ok⟩]

theorem witness_LostUpdate :
    (0x77#8, Instr.csetCr, CfgField.cr) ∈ sensorSetters ∧ Memory.wf raced.mem = true ∧ (raced.turnAt 0).reply = .ok ∧
      raced.turnAt 1 = ⟨[⟨.configuration, 0xE0A0#16⟩], .ok⟩ :=
  ⟨by simp [sensorSetters], by decide, by decide, by decide⟩

theorem witness_ModeChangeKeepsThresholds : Memory.wf (quietBench 4).mem = true ∧ Quiet 4 (quietBench 4) :=
  ⟨quietBench_wf.2, quietBench_quiet.1⟩

/-- A valid reading, the sentinel, and each of the three reads. -/
theorem witness_FahrenheitReadComposes :
    (Pseudo.rdTempF, SensorReg.temperature) ∈ fahrenheitReads ∧ (Pseudo.rdTlowF, SensorReg.tLow) ∈ fahrenheitReads ∧
    (Pseudo.rdThighF, SensorReg.tHigh) ∈ fahrenheitReads ∧
    Answered 2 (quietBench 2) ∧ (seenSecond (quietBench 2) .temperature).toNat ≠ 65535 ∧
    (seenSecond (bench 0xFFFF#16 0x60A0#16 0#16 0#16 [quietTurn, quietTurn]) .temperature).toNat = 65535 :=
  ⟨by decide, by decide, by decide, quietBench_answered.1, by decide, by decide⟩

/-- The first read fails, and the second. -/
theorem witness_FahrenheitReadStopsOnFailure :
    (Pseudo.rdThighF, SensorReg.tHigh) ∈ fahrenheitReads ∧
    ((firstTurn (.fail 0x07#8 false)).turnAt 0).reply = .fail 0x07#8 false ∧
    ((secondTurn (.fail 0x2A#8 false)).turnAt 0).reply = .ok ∧
    ((secondTurn (.fail 0x2A#8 false)).turnAt 1).reply = .fail 0x2A#8 false := by decide

/-- A response with status OK, absent and present, and one with status TFAIL. -/
theorem witness_PseudoCommandsExpand :
    Pseudo.alert ∈ [Pseudo.sleep, .wake, .osStatus, .alert] ∧ (Pseudo.rdTlowF, SensorReg.tLow) ∈ fahrenheitReads ∧
    (⟨.ok, true, 0#8, 0xFFFFFFFF#32⟩ : Rsp).status = .ok ∧ (⟨.ok, false, 0#8, 0#32⟩ : Rsp).status = .ok ∧
    (⟨.tfail, false, 0x07#8, 1#32⟩ : Rsp).status ≠ .ok := by decide

/-- An idle block to which two words are presented: a command, and a reserved code. -/
def presented (w : CmdWord) : State := { quietBench 2 with cmds := [w, 0x7600000001#40] }

theorem witness_StepRunsDecoded :
    Idle (presented 0x4000000000#40) ∧ rstHighAt (presented 0x4000000000#40) 0 = false ∧
    (presented 0x4000000000#40).cmds = 0x4000000000#40 :: [0x7600000001#40] ∧ decode 0x4000000000#40 = .ok .rdTemp := by
  unfold Idle; decide

theorem witness_ReservedCodeIsIllegal :
    Idle (presented 0x26DEADBEEF#40) ∧ rstHighAt (presented 0x26DEADBEEF#40) 0 = false ∧
    (∀ r ∈ opTable, r.op ≠ opOf 0x26DEADBEEF#40) ∧ (∀ r ∈ opTable, r.op ≠ opOf 0xFF00000000#40) := by unfold Idle; decide

/-- A block that waits for its transport, and one whose response waits. -/
def waiting : State := { presented 0x4000000000#40 with busy := true, reqTaken := true }

def answered (w : RspWord) : State := { presented 0x4000000000#40 with busy := true, rspPending := true, rsp := w }

theorem witness_BusyBlockAcceptsNothing :
    (rstHighAt waiting 0 = false ∧ waiting.busy = true ∧ step waiting = .next waiting) ∧
    (answered 0x10000000190#43).busy = true ∧
    (match step (answered 0x10000000190#43) with | .next _ => true | _ => false) = true := ⟨⟨rfl, rfl, rfl⟩, rfl, by decide⟩

theorem witness_TakenResponseReleasesBlock :
    rstHighAt (answered 0x10000000190#43) 0 = false ∧ (answered 0x10000000190#43).reqTaken = false ∧
    (answered 0x10000000190#43).rspReady = true ∧ Response (answered 0x10000000190#43) (statusCode .ok).toNat 1 0 0x190 ∧
    Response (answered 0x22A00000102#43) (statusCode .tfail).toNat 0 0x2A 0x102 ∧
    Response (answered 0x40000000000#43) (statusCode .illegal).toNat 0 0 0 := by unfold Response; decide

theorem witness_OneResponsePerCommand :
    Idle (presented 0x4000000000#40) ∧ (∀ k < 2, rstHighAt (presented 0x4000000000#40) k = false) ∧
    (presented 0x4000000000#40).cmds = 0x4000000000#40 :: [0x7600000001#40] ∧
    (presented 0x4000000000#40).rspReady = true ∧ (∀ j < 2, ((presented 0x4000000000#40).turnAt j).reply = .ok) := by
  unfold Idle; decide

/-- Two idle blocks with different hold registers and different histories. -/
theorem witness_CommandsAreStateless :
    Idle (presented 0x4000000000#40) ∧
    Idle { presented 0x4000000000#40 with cfg := 0xFFFF#16, data := 0x1234#16, op := 0x77#8, phase := 2#2,
                                          rsp := 0x22A00000102#43, bus := [⟨.x48, .read .tLow⟩], cmds := [0x4000000000#40] } := by
  unfold Idle; decide

theorem witness_TransactionsAreBounded : step State.reset = .next State.reset := rfl

/-- A command in flight whose first request is not answered, or whose second is not. -/
def unanswered (c : Cut) : State := { firstTurn (.silent c) with busy := true }

def unansweredSecond (c : Cut) : State := { secondTurn (.silent c) with busy := true }

theorem witness_UnansweredCommandWaits :
    Sequenced .rdTemp ∧ (∀ l, (unanswered (.taken l)).rst = [] ∧ (unanswered (.taken l)).busy = true ∧
      (unanswered (.taken l)).rspPending = false ∧ ((unanswered (.taken l)).turnAt 0).reply = .silent (.taken l)) ∧
    (unanswered .withdrawn).rst = [] ∧ (unanswered .withdrawn).busy = true ∧ (unanswered .withdrawn).rspPending = false ∧
    ((unanswered .withdrawn).turnAt 0).reply = .silent .withdrawn := by unfold Sequenced; decide

/-- The second request, a write and a read, is not answered. -/
theorem witness_UnansweredCommandWaits_second :
    requestAt (.csetCr 3#32) 1#2 (seenNow (unansweredSecond (.taken true)) .configuration) =
      some (.write .configuration 0x60E0#16) ∧
    requestAt .rdTemp 1#2 (seenNow (unansweredSecond (.taken true)) .configuration) = some (.read .temperature) ∧
    (∀ c ∈ [Cut.withdrawn, .taken true, .taken false], (unansweredSecond c).rst = [] ∧ (unansweredSecond c).busy = true ∧
      (unansweredSecond c).rspPending = false ∧ ((unansweredSecond c).turnAt 0).reply = .ok ∧
      ((unansweredSecond c).turnAt 1).reply = .silent c) := by decide

/-- A response the host does not take. -/
theorem witness_UnansweredCommandWaits_response :
    { answered 0x10000000190#43 with rspReady := false }.rst = [] ∧
    { answered 0x10000000190#43 with rspReady := false }.rspPending = true := by decide

theorem witness_ResetStep : rstHighAt { answered 0x10000000190#43 with rst := [true] } 0 = true := by decide

/-- Reset in the first transaction: not yet taken, and taken. -/
theorem witness_ResetCutsCommandOff_first :
    Sequenced .cgetSd ∧ ∀ c ∈ [Cut.withdrawn, .taken true, .taken false], ((firstTurn (.reset c)).turnAt 0).reply = .reset c := by
  unfold Sequenced; decide

/-- Reset in the second transaction, a write and a read: not yet taken, taken and landed, taken and not landed. -/
theorem witness_ResetCutsCommandOff_second :
    requestAt (.csetCr 3#32) 1#2 (seenNow (secondTurn (.reset (.taken true))) .configuration) =
      some (.write .configuration 0x60E0#16) ∧
    requestAt .rdThigh 1#2 (seenNow (secondTurn (.reset (.taken true))) .configuration) = some (.read .tHigh) ∧
    ∀ c ∈ [Cut.withdrawn, .taken true, .taken false], ((secondTurn (.reset c)).turnAt 0).reply = .ok ∧
      ((secondTurn (.reset c)).turnAt 1).reply = .reset c := by decide

/-- A sound state with a listed sensor, a word to run, and a history. -/
theorem presented_sound : Sound { presented 0x4000000000#40 with bus := [⟨.x48, .write .tLow 0#16⟩] } :=
  ⟨by decide, by decide, by decide, by decide, by decide, by decide, by decide⟩

theorem witness_StepKeepsInvariant :
    Sound { presented 0x4000000000#40 with bus := [⟨.x48, .write .tLow 0#16⟩] } ∧
    (match step { presented 0x4000000000#40 with bus := [⟨.x48, .write .tLow 0#16⟩] } with
      | .next t => t.rspPending
      | _ => false) = true := ⟨presented_sound, by decide⟩

/-- Also a state with a response pending. -/
theorem witness_SoundStateNeverStops : Sound (answered 0x22A00000102#43) :=
  ⟨by decide, by decide, by decide, by decide, by decide, by decide, by decide⟩

theorem witness_ClockedBlockRefinesStep :
    Idle (presented 0x77FFFFFFFF#40) ∧ (presented 0x77FFFFFFFF#40).rst = [] ∧
    (presented 0x77FFFFFFFF#40).cmds = 0x77FFFFFFFF#40 :: [0x7600000001#40] ∧
    ((presented 0x77FFFFFFFF#40).turnAt 0).reply = .ok ∧ ((presented 0x77FFFFFFFF#40).turnAt 1).reply = .ok := by
  unfold Idle; decide

/-- The input ports with nothing on them. -/
def noInput : PortsIn := ⟨false, false, 0#8, 0#32, false, false, false, false, 0#8, 0#16⟩

theorem witness_ClockedReset : ({ noInput with rst := true } : PortsIn).rst = true := by decide

/-- A block that presents a request, one that awaits an answer, one that presents a response. -/
def requesting : State := { quietBench 2 with busy := true, op := 0x40#8 }

theorem witness_PresentedWordsAreHeld :
    noInput.rst = false ∧ (portsOut (answered 0x10000000190#43)).rspValid = true ∧ noInput.rspReady = false ∧
    (portsOut requesting).tReqValid = true ∧ noInput.tReqReady = false := by decide

theorem witness_PayloadsSampledAtTransfer :
    (portsOut requesting).cmdReady = false ∧ noInput.cmdValid = false ∧ (portsOut requesting).tRspReady = false ∧
    noInput.tRspValid = false := by decide

/-- The block at its ports: the mode fetch of RD.TEMP goes out as a read of register 1 of device 0x48 (rules R19, R111). -/
theorem test_ports_request :
    (portsOut requesting).tReqValid = true ∧ (portsOut requesting).tReqWrite = false ∧ (portsOut requesting).tReqDev = 0x48#7 ∧
    (portsOut requesting).tReqReg = 0x01#8 ∧ (portsOut requesting).cmdReady = false ∧ (portsOut requesting).rspValid = false ∧
    (portsOut requesting).tRspReady = false := by decide

/-- The write of CSET.CR 3 goes out with the new image (rules R19, R130). -/
theorem test_ports_write :
    (portsOut { requesting with op := 0x77#8, arg := 3#32, phase := 1#2, cfg := 0x60A0#16 }).tReqValid = true ∧
    (portsOut { requesting with op := 0x77#8, arg := 3#32, phase := 1#2, cfg := 0x60A0#16 }).tReqWrite = true ∧
    (portsOut { requesting with op := 0x77#8, arg := 3#32, phase := 1#2, cfg := 0x60A0#16 }).tReqWdata = 0x60E0#16 := by decide

/-- CSET.CR 3 edge by edge reaches the state of the step in six edges. -/
theorem test_clocked_csetCr :
    (match step { quietBench 2 with cmds := [0x7700000003#40] } with
      | .next t => decide (t = systemEdge^[6] { quietBench 2 with cmds := [0x7700000003#40] })
      | _ => false) = true := by decide

end Sys2Proof.Machine.Tests
end

section
/-! SUPPORT. What a step can do, said once, and the block with a command under way. -/

namespace Sys2Proof.Machine

/-! ### One step, case by case -/

theorem step_of_rst (s : State) (h : rstHighAt s 0 = true) : step s = .next (blockReset (passStep s)) := by
  simp [step, h]

theorem step_of_untaken (s : State) (hr : rstHighAt s 0 = false) (hp : s.rspPending = true) (hh : s.rspReady = false) :
    step s = .next (passStep s) := by
  simp [step, hr, hp, hh]

theorem step_of_ready (s : State) (hr : rstHighAt s 0 = false) (hp : s.rspPending = true) (hh : s.rspReady = true) :
    step s = takeRsp (passStep s) := by
  simp [step, hr, hp, hh]

theorem step_of_busy (s : State) (hr : rstHighAt s 0 = false) (hp : s.rspPending = false) (hb : s.busy = true) :
    step s = .next (passStep s) := by
  simp [step, hr, hp, hb]

theorem step_of_nothing_presented (s : State) (hr : rstHighAt s 0 = false) (hp : s.rspPending = false)
    (hb : s.busy = false) (hc : s.cmds = []) : step s = .next (passStep s) := by
  simp [step, hr, hp, hb, hc]

theorem step_of_presented (s : State) (w : CmdWord) (ws : List CmdWord) (hr : rstHighAt s 0 = false)
    (hp : s.rspPending = false) (hb : s.busy = false) (hc : s.cmds = w :: ws) :
    step s = runWord w { passStep s with cmds := ws } := by
  simp [step, hr, hp, hb, hc]

theorem takeRsp_eq_next (s t : State) :
    takeRsp s = .next t ↔ ∃ r, readRsp s.rsp = some r ∧ t = { releaseRsp s with taken := s.taken ++ [r] } := by
  unfold takeRsp
  cases readRsp s.rsp with
  | none => simp
  | some r => simp [eq_comm]

theorem runWord_of_decode (w : CmdWord) (i : Instr) (s : State) (h : decode w = .ok i) :
    runWord w s = .next (runShape (shapeOf i) (acceptWord w s)) := by
  rw [← exec_eq_runShape]; simp [runWord, h]

theorem runWord_of_reserved (w : CmdWord) (x : Reject) (s : State) (h : decode w = .error x) :
    runWord w s = .next (raiseIllegal (acceptWord w s)) := by
  simp [runWord, h]

/-- Everything a step that answers a next state can do: reset, the taking of a response, waiting, or a command. -/
theorem step_cases {s t : State} (h : step s = .next t) :
    (rstHighAt s 0 = true ∧ t = blockReset (passStep s)) ∨
    (rstHighAt s 0 = false ∧ s.rspPending = true ∧ s.rspReady = true ∧
      ∃ r, readRsp s.rsp = some r ∧ t = { releaseRsp (passStep s) with taken := s.taken ++ [r] }) ∨
    (rstHighAt s 0 = false ∧ t = passStep s ∧
      (s.rspPending = true ∧ s.rspReady = false ∨ s.rspPending = false ∧ (s.busy = true ∨ s.cmds = []))) ∨
    (rstHighAt s 0 = false ∧ s.rspPending = false ∧ s.busy = false ∧
      ∃ w ws, s.cmds = w :: ws ∧ runWord w { passStep s with cmds := ws } = .next t) := by
  cases hr : rstHighAt s 0 with
  | true => rw [step_of_rst s hr] at h; cases h; exact .inl ⟨rfl, rfl⟩
  | false =>
    cases hp : s.rspPending with
    | true =>
      cases hh : s.rspReady with
      | false => rw [step_of_untaken s hr hp hh] at h; cases h; exact .inr (.inr (.inl ⟨rfl, rfl, .inl ⟨rfl, rfl⟩⟩))
      | true =>
        rw [step_of_ready s hr hp hh, takeRsp_eq_next] at h
        exact .inr (.inl ⟨rfl, rfl, rfl, h⟩)
    | false =>
      cases hb : s.busy with
      | true => rw [step_of_busy s hr hp hb] at h; cases h; exact .inr (.inr (.inl ⟨rfl, rfl, .inr ⟨rfl, .inl rfl⟩⟩))
      | false =>
        cases hc : s.cmds with
        | nil =>
          rw [step_of_nothing_presented s hr hp hb hc] at h; cases h
          exact .inr (.inr (.inl ⟨rfl, rfl, .inr ⟨rfl, .inr rfl⟩⟩))
        | cons w ws =>
          rw [step_of_presented s w ws hr hp hb hc] at h
          exact .inr (.inr (.inr ⟨rfl, rfl, rfl, w, ws, rfl, h⟩))

/-! ### A command under way, between two transactions -/

/-- A command is in flight, with no request outstanding and its response not yet made (rules R13, R19). -/
structure Running (s : State) : Prop where
  busy       : s.busy = true
  rspPending : s.rspPending = false
  reqTaken   : s.reqTaken = false

theorem Idle.running_acceptWord {s : State} (h : Idle s) (w : CmdWord) : Running (acceptWord w s) :=
  ⟨rfl, h.2.1, h.2.2⟩

theorem Running.beginTurn {s : State} (h : Running s) : Running (beginTurn s) := ⟨h.busy, h.rspPending, h.reqTaken⟩

theorem Running.completeReq {s : State} (h : Running s) (q : Req) : Running (completeReq q s) :=
  ⟨by simp [h.busy], by simp [h.rspPending], by simp [h.reqTaken]⟩

theorem Running.failReq {s : State} (h : Running s) (q : Req) (l : Bool) : Running (failReq q l s) :=
  ⟨h.busy, h.rspPending, h.reqTaken⟩

theorem Running.afterCfgRead {s : State} (h : Running s) : Running (afterCfgRead s) := h.beginTurn.completeReq _

end Sys2Proof.Machine
end

section
/-! PROOF. The invariant: every named operation keeps it, so every step does; and the reset state. -/

namespace Sys2Proof.Machine

/-! ### The operations keep the invariant -/

theorem Sound.passStep {s : State} (h : Sound s) : Sound (passStep s) :=
  ⟨h.memWf, h.memSpace, h.busLegal, h.pendBusy, h.takenBusy, h.phaseLe, h.rspLegal⟩

theorem Sound.idle {s : State} (h : Sound s) (hp : s.rspPending = false) (hb : s.busy = false) : Idle s := by
  refine ⟨hb, hp, Bool.eq_false_iff.2 fun ht => ?_⟩
  have := (h.takenBusy ht).1
  rw [hb] at this; cases this

/-- What the host presents is no part of the invariant. -/
theorem Sound.withCmds {s : State} (h : Sound s) (ws : List CmdWord) : Sound { s with cmds := ws } :=
  ⟨h.memWf, h.memSpace, h.busLegal, h.pendBusy, h.takenBusy, h.phaseLe, h.rspLegal⟩

theorem Sound.acceptWord {s : State} (h : Sound s) (hi : Idle s) (w : CmdWord) : Sound (acceptWord w s) where
  memWf := h.memWf
  memSpace := h.memSpace
  busLegal := h.busLegal
  pendBusy _ := rfl
  takenBusy _ := ⟨rfl, hi.2.1⟩
  phaseLe := by simp
  rspLegal := h.rspLegal

/-- A command under way may end with any response that rule R41 allows. -/
theorem Sound.respond {s : State} (h : Sound s) (hr : Running s) (r : Rsp) (hl : Machine.rspLegal (rspWord r) = true) :
    Sound (respond r s) where
  memWf := h.memWf
  memSpace := h.memSpace
  busLegal := h.busLegal
  pendBusy _ := hr.busy
  takenBusy ht := by rw [respond_reqTaken, hr.reqTaken] at ht; cases ht
  phaseLe := h.phaseLe
  rspLegal _ := hl

theorem Sound.raiseTfail {s : State} (h : Sound s) (hr : Running s) (e : Byte) (r : SensorReg) (w : Bool) :
    Sound (raiseTfail e r w s) :=
  h.respond hr _ (rspLegal_tfail e r w)

theorem Sound.releaseRsp {s : State} (h : Sound s) (hp : s.rspPending = true) (rs : List Rsp) :
    Sound { releaseRsp s with taken := rs } where
  memWf := h.memWf
  memSpace := h.memSpace
  busLegal := h.busLegal
  pendBusy hp := by cases hp
  takenBusy ht := absurd (h.takenBusy ht).2 (by simp [hp])
  phaseLe := h.phaseLe
  rspLegal hp := by cases hp

theorem Sound.blockReset {s : State} (h : Sound s) : Sound (blockReset s) where
  memWf := h.memWf
  memSpace := h.memSpace
  busLegal := h.busLegal
  pendBusy hp := by cases hp
  takenBusy ht := by cases ht
  phaseLe := by simp
  rspLegal hp := by cases hp

theorem Sound.beginTurn {s : State} (h : Sound s) : Sound (beginTurn s) where
  memWf := wf_applyChanges _ _ _ h.memWf
  memSpace := inSpace_applyChanges _ _ _ h.memSpace
  busLegal := h.busLegal
  pendBusy := h.pendBusy
  takenBusy := h.takenBusy
  phaseLe := h.phaseLe
  rspLegal := h.rspLegal

theorem txnLegal_of_writable (d : DevAddr) (q : Req) (hq : Writable q) : txnLegal d ⟨d, q⟩ = true := by
  cases q with
  | read r => simp [txnLegal]
  | write r p => cases r <;> simp_all [txnLegal, Writable]

/-- The record stays legal when a request the block may make is added. -/
theorem busLegal_append {d : DevAddr} {b : List Txn} (h : ∀ x ∈ b, txnLegal d x = true) (q : Req) (hq : Writable q) :
    ∀ x ∈ b ++ [⟨d, q⟩], txnLegal d x = true := by
  intro x hx
  rcases List.mem_append.1 hx with hx | hx
  · exact h x hx
  · rw [List.mem_singleton.1 hx]; exact txnLegal_of_writable d q hq

theorem Sound.failReq {s : State} (h : Sound s) (q : Req) (hq : Writable q) (l : Bool) : Sound (failReq q l s) where
  memWf := by cases l <;> [exact h.memWf; exact wf_storeReq _ _ _ h.memWf]
  memSpace := by cases l <;> [exact h.memSpace; exact inSpace_storeReq _ _ _ h.memSpace]
  busLegal := busLegal_append h.busLegal q hq
  pendBusy := h.pendBusy
  takenBusy := h.takenBusy
  phaseLe := h.phaseLe
  rspLegal := h.rspLegal

theorem Sound.hangReq {s : State} (h : Sound s) (hr : Running s) (q : Req) (hq : Writable q) (c : Cut) :
    Sound (hangReq q c s) := by
  cases c with
  | withdrawn => exact h
  | taken l =>
    have hf := h.failReq q hq l
    exact ⟨hf.memWf, hf.memSpace, hf.busLegal, hf.pendBusy, fun _ => ⟨hr.busy, hr.rspPending⟩, hf.phaseLe, hf.rspLegal⟩

/-- A completed transaction keeps the invariant while `H.phase` has room for it. -/
theorem Sound.completeReq {s : State} (h : Sound s) (q : Req) (hq : Writable q) (hph : s.phase.toNat ≤ 1) :
    Sound (completeReq q s) where
  memWf := by simpa using wf_storeReq _ _ _ h.memWf
  memSpace := by simpa using inSpace_storeReq _ _ _ h.memSpace
  busLegal := by simpa using busLegal_append h.busLegal q hq
  pendBusy := by simpa using h.pendBusy
  takenBusy := by simpa using h.takenBusy
  phaseLe := by rw [completeReq_phase, BitVec.toNat_add]; simp; omega
  rspLegal := by simpa using h.rspLegal

/-! ### Commands and steps keep it -/

/-- A command accepted by an idle block leaves the block sound, whatever becomes of its transactions. -/
theorem Sound.runShape {s : State} (h : Sound s) (hr : Running s) (hph : s.phase = 0#2) (i : Instr) :
    Sound (runShape (shapeOf i) s) := by
  have hcfg : Writable (.read .configuration) := fun p => by simp
  have h₁ : Sound (Machine.beginTurn s) := h.beginTurn
  have h₂ : Sound (Machine.beginTurn (Machine.afterCfgRead s)) := (h₁.completeReq _ hcfg (by simp [hph])).beginTurn
  have hr₂ := hr.afterCfgRead.beginTurn
  have hph₂ : (Machine.beginTurn (Machine.afterCfgRead s)).phase.toNat ≤ 1 := by simp [Machine.afterCfgRead, hph]
  apply runShape_cases
  case pure => exact fun r hx => h.respond hr r (rspLegal_of_pure i r hx)
  case firstFails => exact fun e l => (h₁.failReq _ hcfg l).raiseTfail (hr.beginTurn.failReq _ l) _ _ _
  case firstSilent => exact fun c => h₁.hangReq hr.beginTurn _ hcfg c
  case firstReset => exact fun c => (h₁.hangReq hr.beginTurn _ hcfg c).blockReset
  case oneRead => exact fun r hl => (h₁.completeReq _ hcfg (by simp [hph])).respond hr.afterCfgRead r hl
  case second => exact fun q hq r hl => (h₂.completeReq q hq hph₂).respond (hr₂.completeReq q) r hl
  case secondFails => exact fun q hq e l => (h₂.failReq q hq l).raiseTfail (hr₂.failReq q l) _ _ _
  case secondSilent => exact fun q hq c => h₂.hangReq hr₂ q hq c
  case secondReset => exact fun q hq c => (h₂.hangReq hr₂ q hq c).blockReset
  case writable => exact fun r c => writeCount_reg i r c

theorem Sound.runWord {s t : State} (h : Sound s) (hi : Idle s) (w : CmdWord) (ht : runWord w s = .next t) : Sound t := by
  have ha := h.acceptWord hi w
  cases hd : decode w with
  | ok i =>
    rw [runWord_of_decode w i s hd] at ht; cases ht
    exact ha.runShape (hi.running_acceptWord w) rfl i
  | error x =>
    rw [runWord_of_reserved w x s hd] at ht; cases ht
    exact ha.respond (hi.running_acceptWord w) _ rspLegal_illegal

theorem Sound.step {s t : State} (h : Sound s) (ht : step s = .next t) : Sound t := by
  rcases step_cases ht with ⟨-, rfl⟩ | ⟨-, hp, -, r, -, rfl⟩ | ⟨-, rfl, -⟩ | ⟨-, hp, hb, w, ws, -, hw⟩
  · exact h.passStep.blockReset
  · exact h.passStep.releaseRsp hp _
  · exact h.passStep
  · exact (h.passStep.withCmds ws).runWord (h.idle hp hb) w hw

/-- Settles O45: every branch of the step is made of operations that keep the invariant. -/
theorem stepKeepsInvariant : Obligations.StepKeepsInvariant := fun _ _ h ht => h.step ht

/-- Settles O43: each clause is a field of the reset state. -/
theorem resetState : Obligations.ResetState := ⟨rfl, rfl, rfl, rfl, rfl, ⟨rfl, rfl, rfl⟩, rfl⟩

/-- Settles O46: nothing is listed, recorded, pending or outstanding in the reset state. -/
theorem resetIsSound : Obligations.ResetIsSound where
  memWf := rfl
  memSpace c hc := by cases hc
  busLegal x hx := by cases hx
  pendBusy hp := by cases hp
  takenBusy ht := by cases ht
  phaseLe := by decide
  rspLegal hp := by cases hp

end Sys2Proof.Machine
end

section
/-! PROOF. Steps and commands: acceptance, a busy block, what a failure leaves in the hold registers, and statelessness. -/

namespace Sys2Proof.Machine

/-- Settles O34: an idle block with a word presented runs it, and a word that decodes runs as its command. -/
theorem stepRunsDecoded : Obligations.StepRunsDecoded := by
  rintro s w ws i ⟨hb, hp, -⟩ hr hc hd
  rw [step_of_presented s w ws hr hp hb hc, runWord_of_decode w i _ hd, exec_eq_runShape]
  rfl

/-- Settles O36: of the four things a step can do, reset and acceptance are excluded, and the others keep these fields. -/
theorem busyBlockAcceptsNothing : Obligations.BusyBlockAcceptsNothing := by
  intro s t hr hb ht
  rcases step_cases ht with ⟨hr', -⟩ | ⟨-, -, -, r, -, rfl⟩ | ⟨-, rfl, -⟩ | ⟨-, -, hb', -⟩
  · rw [hr] at hr'; cases hr'
  · exact ⟨rfl, rfl, rfl, rfl, rfl, rfl, rfl, rfl⟩
  · exact ⟨rfl, rfl, rfl, rfl, rfl, rfl, rfl, rfl⟩
  · rw [hb] at hb'; cases hb'

/-- Settles O25: a failure at the first transaction comes before any answer is kept, one at the second after exactly one. -/
theorem failureKeepsHoldRegisters : Obligations.FailureKeepsHoldRegisters := by
  intro i s e l
  refine ⟨fun hq h0 => ⟨_, exec_eq_runShape i s, ?_⟩, fun q hq h0 h1 => ⟨_, exec_eq_runShape i s, ?_⟩⟩
  · rw [runShape_first i hq fun k => memRead_fail .configuration s k e l h0]
    exact ⟨rfl, rfl, rfl⟩
  · have h1' : ((afterCfgRead s).turnAt 0).reply = .fail e l := by simpa using h1
    rcases runShape_second i q hq h0 with ⟨r, k, -, hk⟩ | ⟨r, p, k, -, hk⟩
    · rw [hk, memRead_fail r _ k e l h1']
      simp [afterCfgRead, seenNow, memBefore]
    · rw [hk, memWrite_fail r p _ k e l h1']
      simp [afterCfgRead, seenNow, memBefore]

/-! ### Two blocks that differ only in what an earlier command has left -/

/-- Two blocks on one device, with one sensor, the same coming turns and the same response if one is pending, which have made the same
requests since their records stood at `b₁` and `b₂`. Their hold registers and hosts are free. -/
structure Alike (b₁ b₂ : List Txn) (s₁ s₂ : State) : Prop where
  devAddr    : s₁.devAddr = s₂.devAddr
  mem        : s₁.mem = s₂.mem
  turns      : s₁.turns = s₂.turns
  freeNo     : s₁.freeNo = s₂.freeNo
  busy       : s₁.busy = s₂.busy
  rspPending : s₁.rspPending = s₂.rspPending
  rsp        : s₁.rspPending = true → s₁.rsp = s₂.rsp
  bus        : ∃ l, s₁.bus = b₁ ++ l ∧ s₂.bus = b₂ ++ l

section
variable {b₁ b₂ : List Txn} {s₁ s₂ : State}

theorem Alike.turnAt (h : Alike b₁ b₂ s₁ s₂) (k : Nat) : s₁.turnAt k = s₂.turnAt k := by
  simp [State.turnAt, h.turns, h.freeNo]

theorem Alike.answerOf (h : Alike b₁ b₂ s₁ s₂) (q : Req) : answerOf q s₁ = answerOf q s₂ := by
  cases q <;> simp [Machine.answerOf, h.mem, h.devAddr]

theorem Alike.respond (h : Alike b₁ b₂ s₁ s₂) (r : Rsp) : Alike b₁ b₂ (respond r s₁) (respond r s₂) :=
  { h with rspPending := rfl, rsp := fun _ => rfl }

theorem Alike.blockReset (h : Alike b₁ b₂ s₁ s₂) : Alike b₁ b₂ (blockReset s₁) (blockReset s₂) :=
  { h with
    freeNo := congrArg (· + 1) h.freeNo
    busy := rfl
    rspPending := rfl
    rsp := fun hp => by cases hp }

theorem Alike.beginTurn (h : Alike b₁ b₂ s₁ s₂) : Alike b₁ b₂ (beginTurn s₁) (beginTurn s₂) :=
  { h with
    mem := by simp [h.devAddr, h.mem, h.turnAt]
    turns := congrArg List.tail h.turns
    freeNo := congrArg (· + 1) h.freeNo }

/-- One more request on both records. -/
theorem Alike.bus_append (h : Alike b₁ b₂ s₁ s₂) (q : Req) :
    ∃ l, s₁.bus ++ [⟨s₁.devAddr, q⟩] = b₁ ++ l ∧ s₂.bus ++ [⟨s₂.devAddr, q⟩] = b₂ ++ l := by
  obtain ⟨l, h₁, h₂⟩ := h.bus
  exact ⟨l ++ [⟨s₁.devAddr, q⟩], by rw [h₁, List.append_assoc], by rw [h₂, h.devAddr, List.append_assoc]⟩

theorem Alike.failReq (h : Alike b₁ b₂ s₁ s₂) (q : Req) (l : Bool) : Alike b₁ b₂ (failReq q l s₁) (failReq q l s₂) :=
  { h with mem := by simp [h.devAddr, h.mem], bus := h.bus_append q }

theorem Alike.hangReq (h : Alike b₁ b₂ s₁ s₂) (q : Req) (c : Cut) : Alike b₁ b₂ (hangReq q c s₁) (hangReq q c s₂) := by
  cases c with
  | withdrawn => exact h
  | taken l => exact { h.failReq q l with }

theorem Alike.completeReq (h : Alike b₁ b₂ s₁ s₂) (q : Req) : Alike b₁ b₂ (completeReq q s₁) (completeReq q s₂) where
  devAddr := by simp [h.devAddr]
  mem := by simp [h.devAddr, h.mem]
  turns := by simp [h.turns]
  freeNo := by simp [h.freeNo]
  busy := by simp [h.busy]
  rspPending := by simp [h.rspPending]
  rsp := by simpa using h.rsp
  bus := by simpa using h.bus_append q

/-- A transaction teaches both blocks the same and leaves them alike. -/
theorem Alike.transact (h : Alike b₁ b₂ s₁ s₂) (q : Req) :
    (transact q s₁).1 = (transact q s₂).1 ∧ Alike b₁ b₂ (transact q s₁).2 (transact q s₂).2 := by
  have ht := h.turnAt 0
  have hb := h.beginTurn
  cases hr : (s₂.turnAt 0).reply with
  | ok =>
    rw [transact_ok q s₁ (by rw [ht, hr]), transact_ok q s₂ hr]
    exact ⟨congrArg Answer.ok (hb.answerOf q), hb.completeReq q⟩
  | fail e l =>
    rw [transact_fail q s₁ e l (by rw [ht, hr]), transact_fail q s₂ e l hr]
    exact ⟨rfl, hb.failReq q l⟩
  | silent c =>
    rw [transact_silent q s₁ c (by rw [ht, hr]), transact_silent q s₂ c hr]
    exact ⟨rfl, hb.hangReq q c⟩
  | reset c =>
    rw [transact_reset q s₁ c (by rw [ht, hr]), transact_reset q s₂ c hr]
    exact ⟨rfl, (hb.hangReq q c).blockReset⟩

theorem Alike.memRead (h : Alike b₁ b₂ s₁ s₂) (r : SensorReg) {k : Pair → State → State}
    (hk : ∀ p u₁ u₂, Alike b₁ b₂ u₁ u₂ → Alike b₁ b₂ (k p u₁) (k p u₂)) :
    Alike b₁ b₂ (memRead r s₁ k) (memRead r s₂ k) := by
  obtain ⟨ha, hs⟩ := h.transact (.read r)
  rcases h₁ : Machine.transact (.read r) s₁ with ⟨a₁, u₁⟩
  rcases h₂ : Machine.transact (.read r) s₂ with ⟨a₂, u₂⟩
  rw [h₁, h₂] at ha hs
  cases ha
  simp only [Machine.memRead, h₁, h₂]
  cases a₁ with
  | ok p => exact hk p _ _ hs
  | fail e => exact hs.respond _
  | stopped => exact hs

theorem Alike.memWrite (h : Alike b₁ b₂ s₁ s₂) (r : SensorReg) (p : Pair) {k : State → State}
    (hk : ∀ u₁ u₂, Alike b₁ b₂ u₁ u₂ → Alike b₁ b₂ (k u₁) (k u₂)) :
    Alike b₁ b₂ (memWrite r p s₁ k) (memWrite r p s₂ k) := by
  obtain ⟨ha, hs⟩ := h.transact (.write r p)
  rcases h₁ : Machine.transact (.write r p) s₁ with ⟨a₁, u₁⟩
  rcases h₂ : Machine.transact (.write r p) s₂ with ⟨a₂, u₂⟩
  rw [h₁, h₂] at ha hs
  cases ha
  simp only [Machine.memWrite, h₁, h₂]
  cases a₁ with
  | ok _ => exact hk _ _ hs
  | fail e => exact hs.respond _
  | stopped => exact hs

/-- A command uses nothing in which the two blocks differ. -/
theorem Alike.runShape (h : Alike b₁ b₂ s₁ s₂) (x : Shape) : Alike b₁ b₂ (runShape x s₁) (runShape x s₂) := by
  cases x with
  | pure r => exact h.respond r
  | getField f => exact h.memRead _ fun p _ _ hu => hu.respond _
  | readCount r => exact h.memRead _ fun p _ _ hu => hu.memRead _ fun p _ _ hv => hv.respond _
  | writeCount r c => exact h.memRead _ fun p _ _ hu => hu.memWrite _ _ fun _ _ hv => hv.respond _
  | setField f v => exact h.memRead _ fun p _ _ hu => hu.memWrite _ _ fun _ _ hv => hv.respond _

theorem Alike.acceptWord (h : Alike b₁ b₂ s₁ s₂) (w : CmdWord) : Alike b₁ b₂ (acceptWord w s₁) (acceptWord w s₂) :=
  { h with busy := rfl }

theorem Alike.runWord (h : Alike b₁ b₂ s₁ s₂) (w : CmdWord) :
    ∃ t₁ t₂, runWord w s₁ = .next t₁ ∧ runWord w s₂ = .next t₂ ∧ Alike b₁ b₂ t₁ t₂ := by
  cases hd : decode w with
  | ok i => exact ⟨_, _, runWord_of_decode w i s₁ hd, runWord_of_decode w i s₂ hd, (h.acceptWord w).runShape _⟩
  | error x =>
    exact ⟨_, _, runWord_of_reserved w x s₁ hd, runWord_of_reserved w x s₂ hd, (h.acceptWord w).respond _⟩

end

/-- Settles O39: two idle blocks in one surrounding are alike, and a command keeps them so. -/
theorem commandsAreStateless : Obligations.CommandsAreStateless := by
  rintro s₁ s₂ w ws₁ ws₂ ⟨hb₁, hp₁, -⟩ ⟨hb₂, hp₂, -⟩ hr₁ hr₂ hc₁ hc₂ hdev hmem hturns hfree
  have h : Alike s₁.bus s₂.bus { passStep s₁ with cmds := ws₁ } { passStep s₂ with cmds := ws₂ } :=
    { devAddr := hdev, mem := hmem, turns := hturns, freeNo := hfree
      busy := hb₁.trans hb₂.symm
      rspPending := hp₁.trans hp₂.symm
      rsp := fun hp => by simp [hp₁] at hp
      bus := ⟨[], by simp, by simp⟩ }
  obtain ⟨t₁, t₂, ht₁, ht₂, ht⟩ := h.runWord w
  obtain ⟨l, hl₁, hl₂⟩ := ht.bus
  rw [← step_of_presented s₁ w ws₁ hr₁ hp₁ hb₁ hc₁] at ht₁
  rw [← step_of_presented s₂ w ws₂ hr₂ hp₂ hb₂ hc₂] at ht₂
  exact ⟨t₁, t₂, l, ht₁, ht₂, ht.rspPending, ht.rsp, ht.busy, ht.mem, ht.turns, hl₁, hl₂⟩

end Sys2Proof.Machine
end

section
/-! PROOF. The block at its ports: what one edge does, when the payloads matter, and the refinement of the step. -/

namespace Sys2Proof.Machine

/-! ### One edge, channel by channel (rule R19) -/

theorem clockEdge_of_rst (x : PortsIn) (s : State) (h : x.rst = true) : clockEdge x s = blockReset s := by
  simp [clockEdge, h]

theorem clockEdge_of_rspPending (x : PortsIn) (s : State) (hr : x.rst = false) (hp : s.rspPending = true) :
    clockEdge x s = if x.rspReady then releaseRsp s else s := by
  simp [clockEdge, hr, hp]

theorem clockEdge_of_idle (x : PortsIn) (s : State) (hr : x.rst = false) (h : Idle s) :
    clockEdge x s = if x.cmdValid then acceptWord (x.cmdOp ++ x.cmdArg) s else s := by
  obtain ⟨hb, hp, -⟩ := h
  simp [clockEdge, hr, hp, hb]

theorem clockEdge_of_reqTaken (x : PortsIn) (s : State) (hr : x.rst = false) (hb : s.busy = true)
    (hp : s.rspPending = false) (ht : s.reqTaken = true) :
    clockEdge x s = if x.tRspValid then takeAnswer x s else s := by
  simp [clockEdge, hr, hb, hp, ht]

theorem clockEdge_of_running (x : PortsIn) (s : State) (hr : x.rst = false) (h : Running s) :
    clockEdge x s = advance x s := by
  simp [clockEdge, hr, h.busy, h.rspPending, h.reqTaken]

theorem presentsReq_iff (s : State) : presentsReq s = true ↔ Running s ∧ ∃ q, wantedReq s = some q := by
  have hr : Running s ↔ s.busy = true ∧ s.rspPending = false ∧ s.reqTaken = false :=
    ⟨fun ⟨hb, hp, ht⟩ => ⟨hb, hp, ht⟩, fun ⟨hb, hp, ht⟩ => ⟨hb, hp, ht⟩⟩
  simp [presentsReq, hr, Option.isSome_iff_exists, and_assoc]

/-- Settles O50: an edge at which a presented word is not transferred changes no register, so no port. -/
theorem presentedWordsAreHeld : Obligations.PresentedWordsAreHeld := by
  refine fun x s hr => ⟨fun hv hn => congrArg portsOut ?_, fun hv hn => congrArg portsOut ?_⟩
  · rw [clockEdge_of_rspPending x s hr hv, hn]; rfl
  · obtain ⟨h, q, hq⟩ := (presentsReq_iff s).1 hv
    rw [clockEdge_of_running x s hr h]
    simp [advance, hq, hn]

/-- Settles O51: the command payload is read by acceptance only, which needs an idle block and `cmd_valid`; the answer's payload by
`takeAnswer` only, which needs a request outstanding and `t_rsp_valid`. -/
theorem payloadsSampledAtTransfer : Obligations.PayloadsSampledAtTransfer := by
  refine fun x s op arg f e d => ⟨?_, ?_⟩
  · rintro (hb | hv)
    · have hb : s.busy = true := by simpa [portsOut] using hb
      simp [clockEdge, hb, takeAnswer, advance]
    · simp [clockEdge, hv, takeAnswer, advance]
  · rintro (ht | hv)
    · have ht : s.reqTaken = false := ht
      simp [clockEdge, ht, advance]
    · simp [clockEdge, hv, advance]

/-! ### Edges of the block in its prompt surroundings -/

/-- The block with its request taken and not yet answered. -/
def takeReq (q : Req) (s : State) : State := { logReq q s with reqTaken := true }

@[simp] theorem takeReq_busy (q : Req) (s : State) : (takeReq q s).busy = s.busy := rfl
@[simp] theorem takeReq_rspPending (q : Req) (s : State) : (takeReq q s).rspPending = s.rspPending := rfl
@[simp] theorem takeReq_reqTaken (q : Req) (s : State) : (takeReq q s).reqTaken = true := rfl
@[simp] theorem takeReq_devAddr (q : Req) (s : State) : (takeReq q s).devAddr = s.devAddr := rfl
@[simp] theorem takeReq_mem (q : Req) (s : State) : (takeReq q s).mem = s.mem := rfl
@[simp] theorem takeReq_rst (q : Req) (s : State) : (takeReq q s).rst = s.rst := rfl
@[simp] theorem takeReq_turnAt (q : Req) (s : State) (k : Nat) : (takeReq q s).turnAt k = s.turnAt k := rfl
@[simp] theorem wantedReq_takeReq (q : Req) (s : State) : wantedReq (takeReq q s) = wantedReq s := rfl

/-- Whether a write has reached its register when a transaction ends whose request has been taken; none when no taken transaction ends
so. -/
def landing : Reply → Option Bool
  | .ok => some true
  | .fail _ l => some l
  | .reset (.taken l) => some l
  | _ => none

theorem endedMem_eq (q : Req) (s : State) (m : Memory) : endedMem q { s with mem := m } =
    if landing (s.turnAt 0).reply = some true then storeReq q s.devAddr m else m := by
  have ht : ({ s with mem := m } : State).turnAt 0 = s.turnAt 0 := rfl
  unfold endedMem
  rw [ht]
  rcases (s.turnAt 0).reply with _ | ⟨e, l⟩ | c | _ | l <;> simp [landing]

/-- At an edge that ends the transaction its turn is used up, and the sensor is as the transaction leaves it. -/
theorem outsideActs_of_endsTxn (q : Req) (s : State) (hq : wantedReq s = some q) (he : endsTxn s = true) :
    outsideActs s = { beginTurn s with
      mem := if landing (s.turnAt 0).reply = some true then storeReq q s.devAddr (memBefore s) else memBefore s } := by
  simp only [outsideActs, hq, he, if_true, endedMem_eq]
  rfl

/-- What a request leaves in the sensor and on the record does not bear on what the command wants next. -/
@[simp] theorem wantedReq_hangReq (q : Req) (c : Cut) (s : State) : wantedReq (hangReq q c s) = wantedReq s := by
  cases c <;> simp [wantedReq, hangReq]

@[simp] theorem wantedReq_beginTurn (s : State) : wantedReq (beginTurn s) = wantedReq s := by simp [wantedReq]

/-- An answer clears the outstanding request of a taken transaction. -/
theorem release_hangReq (q : Req) (l : Bool) {s : State} (h : s.reqTaken = false) :
    { hangReq q (.taken l) s with reqTaken := false } = failReq q l s := by
  simp [hangReq, failReq, logReq, h]

/-- A completed transaction has its effect, is counted, and its answer is kept. -/
theorem completeReq_eq_failReq (q : Req) (s : State) :
    completeReq q s = latchAnswer q (answerOf q s) { failReq q true s with phase := s.phase + 1#2 } := rfl

theorem systemEdge_of_busy (s : State) (hrst : s.rst = []) (hb : s.busy = true) (hp : s.rspPending = false) :
    systemEdge s = clockEdge (promptPorts s) (outsideActs s) := by
  simp [systemEdge, rstHighAt, hrst, hb, hp, passStep_of_nil s hrst]

/-- An idle block accepts the word presented. -/
theorem systemEdge_accept (s : State) (w : CmdWord) (ws : List CmdWord) (h : Idle s) (hrst : s.rst = [])
    (hc : s.cmds = w :: ws) : systemEdge s = acceptWord w { s with cmds := ws } := by
  have h' : Idle { s with cmds := ws } := h
  obtain ⟨hb, hp, -⟩ := h
  have hx : (promptPorts s).rst = false := by simp [promptPorts, rstHighAt, hrst, endsTxn, hb]
  have hs : systemEdge s = clockEdge (promptPorts s) { s with cmds := ws } := by
    simp [systemEdge, rstHighAt, hrst, hb, hp, hc, passStep_of_nil s hrst]
  rw [hs, clockEdge_of_idle _ _ hx h']
  simp [promptPorts, hc]

section
variable {s : State}

/-- A command with no request left makes its response. -/
theorem systemEdge_finish (h : Running s) (hrst : s.rst = []) (hq : wantedReq s = none) :
    systemEdge s = respond (finishedRsp s) s := by
  have hx : (promptPorts s).rst = false := by simp [promptPorts, rstHighAt, hrst, endsTxn, hq]
  have ho : outsideActs s = s := by simp [outsideActs, hq]
  rw [systemEdge_of_busy s hrst h.busy h.rspPending, ho, clockEdge_of_running _ _ hx h]
  simp [advance, hq]

variable {q : Req} (h : Running s) (hrst : s.rst = []) (hq : wantedReq s = some q)
include h hrst hq

/-- The transport takes the request. -/
theorem systemEdge_takes {l : Bool} (hl : landing (s.turnAt 0).reply = some l) : systemEdge s = takeReq q s := by
  have he : endsTxn s = false := by
    rcases hr : (s.turnAt 0).reply with _ | ⟨e, l⟩ | c | _ | l <;> simp_all [endsTxn, landing, h.reqTaken]
  have ho : outsideActs s = s := by simp [outsideActs, hq, he]
  have hx : (promptPorts s).rst = false := by simp [promptPorts, rstHighAt, hrst, he]
  have hy : (promptPorts s).tReqReady = true := by
    rcases hr : (s.turnAt 0).reply with _ | ⟨e, l⟩ | c | _ | l <;> simp_all [promptPorts, landing]
  rw [systemEdge_of_busy s hrst h.busy h.rspPending, ho, clockEdge_of_running _ _ hx h]
  simp [advance, hq, hy, takeReq]

/-- Reset comes before the transport has taken the request. -/
theorem systemEdge_withdrawn (hr : (s.turnAt 0).reply = .reset .withdrawn) :
    systemEdge s = blockReset (beginTurn s) := by
  have he : endsTxn s = true := by simp [endsTxn, hq, hr, h.busy, h.rspPending, h.reqTaken]
  have ho : outsideActs s = beginTurn s := by rw [outsideActs_of_endsTxn q s hq he, hr]; rfl
  have hx : (promptPorts s).rst = true := by simp [promptPorts, he, hr]
  rw [systemEdge_of_busy s hrst h.busy h.rspPending, ho, clockEdge_of_rst _ _ hx]

omit hrst in
/-- At the edge that ends a taken transaction its turn is used up and its request has had its effect. -/
theorem outsideActs_takeReq {l : Bool} (hl : landing (s.turnAt 0).reply = some l) :
    endsTxn (takeReq q s) = true ∧ outsideActs (takeReq q s) = hangReq q (.taken l) (beginTurn s) := by
  have he : endsTxn (takeReq q s) = true := by
    rcases hr : (s.turnAt 0).reply with _ | ⟨e, l⟩ | c | _ | l <;> simp_all [endsTxn, landing, h.busy, h.rspPending]
  refine ⟨he, ?_⟩
  rw [outsideActs_of_endsTxn q (takeReq q s) hq he, takeReq_turnAt, hl]
  cases l <;> rfl

/-- At the edge of a transaction's answer the block takes it, and the outside has acted. -/
theorem systemEdge_takeReq_of_answer {l : Bool} (hl : landing (s.turnAt 0).reply = some l)
    (hr : ∀ c, (s.turnAt 0).reply ≠ .reset c) :
    systemEdge (takeReq q s) = takeAnswer (promptPorts (takeReq q s)) (hangReq q (.taken l) (beginTurn s)) := by
  obtain ⟨-, ho⟩ := outsideActs_takeReq h hq hl
  have hx : (promptPorts (takeReq q s)).rst = false := by
    cases hc : (s.turnAt 0).reply <;> simp_all [promptPorts, rstHighAt]
  have hv : (promptPorts (takeReq q s)).tRspValid = true := by
    cases hc : (s.turnAt 0).reply <;> simp_all [promptPorts, landing]
  rw [systemEdge_of_busy (takeReq q s) hrst h.busy h.rspPending, ho,
    clockEdge_of_reqTaken _ _ hx (by simp [h.busy]) (by simp [h.rspPending]) rfl, if_pos hv]

/-- The answer of a successful transaction completes it. -/
theorem systemEdge_takeReq_of_ok (hr : (s.turnAt 0).reply = .ok) :
    systemEdge (takeReq q s) = completeReq q (beginTurn s) := by
  have hf : (promptPorts (takeReq q s)).tRspFail = false := by simp [promptPorts, hr]
  have hd : (promptPorts (takeReq q s)).tRspRdata = answerOf q (beginTurn s) := by
    simp only [promptPorts, wantedReq_takeReq, hq]
    cases q <;> rfl
  rw [systemEdge_takeReq_of_answer h hrst hq (l := true) (by rw [hr]; rfl) (by simp [hr]), completeReq_eq_failReq,
    ← release_hangReq q true h.beginTurn.reqTaken]
  simp only [takeAnswer, wantedReq_hangReq, wantedReq_beginTurn, hq, hf, hd, Bool.false_eq_true, if_false]
  rfl

/-- The answer of a failed transaction ends the command with TFAIL. -/
theorem systemEdge_takeReq_of_fail {e : Byte} {l : Bool} (hr : (s.turnAt 0).reply = .fail e l) :
    systemEdge (takeReq q s) = raiseTfail e (reqReg q) (reqIsWrite q) (failReq q l (beginTurn s)) := by
  have hf : (promptPorts (takeReq q s)).tRspFail = true := by simp [promptPorts, hr]
  have he : (promptPorts (takeReq q s)).tRspErr = e := by simp [promptPorts, hr]
  rw [systemEdge_takeReq_of_answer h hrst hq (l := l) (by rw [hr]; rfl) (by simp [hr]),
    ← release_hangReq q l h.beginTurn.reqTaken]
  simp only [takeAnswer, wantedReq_hangReq, wantedReq_beginTurn, hq, hf, he, if_true]

/-- Reset comes after the transport has taken the request. -/
theorem systemEdge_takeReq_of_reset {l : Bool} (hr : (s.turnAt 0).reply = .reset (.taken l)) :
    systemEdge (takeReq q s) = blockReset (hangReq q (.taken l) (beginTurn s)) := by
  obtain ⟨he, ho⟩ := outsideActs_takeReq h hq (l := l) (by rw [hr]; rfl)
  have hx : (promptPorts (takeReq q s)).rst = true := by simp [promptPorts, he, hr]
  rw [systemEdge_of_busy (takeReq q s) hrst h.busy h.rspPending, ho, clockEdge_of_rst _ _ hx]

end

/-! ### From edges to transactions -/

/-- At most `n` edges take the block with its surroundings from `s` to `t`. -/
def Reaches (n : Nat) (s t : State) : Prop := ∃ m ≤ n, systemEdge^[m] s = t

theorem Reaches.refl (n : Nat) (s : State) : Reaches n s s := ⟨0, Nat.zero_le n, rfl⟩

/-- One edge, and then the rest. -/
theorem Reaches.edge {n : Nat} {s u t : State} (h : systemEdge s = u) (ht : Reaches n u t) : Reaches (n + 1) s t := by
  obtain ⟨m, hm, rfl⟩ := ht
  exact ⟨m + 1, Nat.succ_le_succ hm, by rw [Function.iterate_succ_apply, h]⟩

theorem memRead_reset (r : SensorReg) (s : State) (k : Pair → State → State) (c : Cut)
    (h : (s.turnAt 0).reply = .reset c) : memRead r s k = blockReset (hangReq (.read r) c (beginTurn s)) := by
  simp [memRead, transact_reset _ _ _ h]

theorem memWrite_reset (r : SensorReg) (p : Pair) (s : State) (k : State → State) (c : Cut)
    (h : (s.turnAt 0).reply = .reset c) : memWrite r p s k = blockReset (hangReq (.write r p) c (beginTurn s)) := by
  simp [memWrite, transact_reset _ _ _ h]

section
variable {n : Nat} {s : State} {q : Req} (h : Running s) (hrst : s.rst = []) (hq : wantedReq s = some q)
include h hrst hq

/-- A successful transaction is two edges: the request is taken, and answered. -/
theorem reaches_of_ok (hr : (s.turnAt 0).reply = .ok) {t : State} (ht : Reaches n (completeReq q (beginTurn s)) t) :
    Reaches (n + 2) s t :=
  .edge (systemEdge_takes h hrst hq (l := true) (by rw [hr]; rfl)) (.edge (systemEdge_takeReq_of_ok h hrst hq hr) ht)

theorem reaches_of_fail {e : Byte} {l : Bool} (hr : (s.turnAt 0).reply = .fail e l) :
    Reaches (n + 2) s (raiseTfail e (reqReg q) (reqIsWrite q) (failReq q l (beginTurn s))) :=
  .edge (systemEdge_takes h hrst hq (l := l) (by rw [hr]; rfl))
    (.edge (systemEdge_takeReq_of_fail h hrst hq hr) (.refl n _))

theorem reaches_of_reset {c : Cut} (hr : (s.turnAt 0).reply = .reset c) :
    Reaches (n + 2) s (blockReset (hangReq q c (beginTurn s))) := by
  cases c with
  | withdrawn => exact .edge (systemEdge_withdrawn h hrst hq hr) (.refl (n + 1) _)
  | taken l =>
    exact .edge (systemEdge_takes h hrst hq (l := l) (by rw [hr]; rfl))
      (.edge (systemEdge_takeReq_of_reset h hrst hq hr) (.refl n _))

end

section
variable {n : Nat} {s : State} (h : Running s) (hrst : s.rst = []) (hsil : ∀ c, (s.turnAt 0).reply ≠ .silent c)
include h hrst hsil

/-- The clocked block does what a read with the rest of its command does, if it does so with the rest. -/
theorem reaches_memRead (r : SensorReg) (k : Pair → State → State) (hq : wantedReq s = some (.read r))
    (hk : Reaches n (completeReq (.read r) (beginTurn s)) (k (seenNow s r) (completeReq (.read r) (beginTurn s)))) :
    Reaches (n + 2) s (memRead r s k) := by
  cases hr : (s.turnAt 0).reply with
  | ok => rw [memRead_ok r s k hr]; exact reaches_of_ok h hrst hq hr hk
  | fail e l => rw [memRead_fail r s k e l hr]; exact reaches_of_fail h hrst hq hr
  | silent c => exact absurd hr (hsil c)
  | reset c => rw [memRead_reset r s k c hr]; exact reaches_of_reset h hrst hq hr

/-- The clocked block does what a write with the rest of its command does, if it does so with the rest. -/
theorem reaches_memWrite (r : SensorReg) (p : Pair) (k : State → State) (hq : wantedReq s = some (.write r p))
    (hk : Reaches n (completeReq (.write r p) (beginTurn s)) (k (completeReq (.write r p) (beginTurn s)))) :
    Reaches (n + 2) s (memWrite r p s k) := by
  cases hr : (s.turnAt 0).reply with
  | ok => rw [memWrite_ok r p s k hr]; exact reaches_of_ok h hrst hq hr hk
  | fail e l => rw [memWrite_fail r p s k e l hr]; exact reaches_of_fail h hrst hq hr
  | silent c => exact absurd hr (hsil c)
  | reset c => rw [memWrite_reset r p s k c hr]; exact reaches_of_reset h hrst hq hr

end

/-! ### The block's own sequencing, shape by shape -/

/-- The request of a shape after `ph` completed transactions, with the kept Configuration answer `cfg`. -/
def shapeRequest (x : Shape) (ph : BitVec 2) (cfg : Pair) : Option Req :=
  match x with
  | .pure _ => none
  | .readCount r => firstThen ph (secondReq (.readCount r) cfg)
  | .writeCount r c => firstThen ph (secondReq (.writeCount r c) cfg)
  | .getField f => firstThen ph (secondReq (.getField f) cfg)
  | .setField f v => firstThen ph (secondReq (.setField f v) cfg)

/-- The response of a shape from the kept answers. -/
def shapeResult (x : Shape) (cfg data : Pair) : Rsp :=
  match x with
  | .pure r => r
  | .readCount _ => dCnt (decodeTemp data (emOf cfg))
  | .writeCount _ _ => dZero
  | .getField f => dFld (fieldGet cfg f)
  | .setField _ _ => dZero

theorem requestAt_eq_shapeRequest (i : Instr) (ph : BitVec 2) (cfg : Pair) :
    requestAt i ph cfg = shapeRequest (shapeOf i) ph cfg := by cases i <;> rfl

theorem resultOf_eq_shapeResult (i : Instr) (cfg data : Pair) :
    resultOf i cfg data = shapeResult (shapeOf i) cfg data := by cases i <;> rfl

/-- The block runs a command of shape `x`, has completed `k` of its transactions, and no reset is listed. -/
structure Executing (x : Shape) (k : BitVec 2) (s : State) : Prop where
  running : Running s
  word    : ∃ i, decode (s.op ++ s.arg) = .ok i ∧ shapeOf i = x
  phase   : s.phase = k
  rst     : s.rst = []

section
variable {x : Shape} {k : BitVec 2} {s : State}

theorem Executing.wantedReq (h : Executing x k s) : wantedReq s = shapeRequest x k s.cfg := by
  obtain ⟨i, hi, rfl⟩ := h.word
  simp [Machine.wantedReq, hi, h.phase, requestAt_eq_shapeRequest]

theorem Executing.finishedRsp (h : Executing x k s) : finishedRsp s = shapeResult x s.cfg s.data := by
  obtain ⟨i, hi, rfl⟩ := h.word
  simp [Machine.finishedRsp, hi, resultOf_eq_shapeResult]

theorem Executing.completeReq (h : Executing x k s) (q : Req) :
    Executing x (k + 1#2) (completeReq q (beginTurn s)) where
  running := h.running.beginTurn.completeReq q
  word := by simpa using h.word
  phase := by simp [h.phase]
  rst := by simpa using h.rst

theorem Executing.readCount_ne {r : SensorReg} (h : Executing (.readCount r) k s) : r ≠ .configuration := by
  obtain ⟨i, -, hx⟩ := h.word
  exact readCount_reg i r hx

/-- A command with no request left ends with its result in one edge. -/
theorem Executing.reaches_respond {n : Nat} (h : Executing x k s) (hq : shapeRequest x k s.cfg = none) {r : Rsp}
    (hr : shapeResult x s.cfg s.data = r) : Reaches (n + 1) s (respond r s) := by
  have he := systemEdge_finish h.running h.rst (h.wantedReq.trans hq)
  rw [h.finishedRsp, hr] at he
  exact .edge he (.refl n _)

/-- A read of a data register keeps the Configuration answer and its own. -/
theorem completeReq_read_answers (r : SensorReg) (hr : r ≠ .configuration) (s : State) :
    (completeReq (.read r) s).cfg = s.cfg ∧ (completeReq (.read r) s).data = readPair s.mem s.devAddr r := by
  cases r with
  | configuration => exact absurd rfl hr
  | _ => exact ⟨rfl, rfl⟩

/-- The clocked block carries a command just accepted to the end that its shape gives, in at most five edges. -/
theorem Executing.reaches_runShape (h : Executing x 0#2 s) (hsil : ∀ j < 2, ∀ c, (s.turnAt j).reply ≠ .silent c) :
    Reaches 5 s (runShape x s) := by
  have h0 := hsil 0 (by decide)
  have h1 : ∀ c, ((afterCfgRead s).turnAt 0).reply ≠ .silent c := by simpa using hsil 1 (by decide)
  have hs : Executing x 1#2 (afterCfgRead s) := h.completeReq (.read .configuration)
  have hcfg : (afterCfgRead s).cfg = seenNow s .configuration := rfl
  cases x with
  | pure r => exact h.reaches_respond rfl rfl
  | getField f =>
    exact reaches_memRead h.running h.rst h0 _ _ h.wantedReq (hs.reaches_respond (n := 2) rfl (by rw [hcfg]; rfl))
  | readCount r =>
    refine reaches_memRead h.running h.rst h0 _ _ h.wantedReq
      (reaches_memRead hs.running hs.rst h1 _ _ hs.wantedReq
        ((hs.completeReq (.read r)).reaches_respond (n := 0) rfl ?_))
    obtain ⟨hc, ha⟩ := completeReq_read_answers r h.readCount_ne (beginTurn (afterCfgRead s))
    rw [hc, ha]
    rfl
  | writeCount r c =>
    exact reaches_memRead h.running h.rst h0 _ _ h.wantedReq
      (reaches_memWrite hs.running hs.rst h1 _ _ _ (by rw [hs.wantedReq, hcfg]; rfl)
        ((hs.completeReq (.write r _)).reaches_respond (n := 0) rfl rfl))
  | setField f v =>
    exact reaches_memRead h.running h.rst h0 _ _ h.wantedReq
      (reaches_memWrite hs.running hs.rst h1 _ _ _ (by rw [hs.wantedReq, hcfg]; rfl)
        ((hs.completeReq (.write .configuration _)).reaches_respond (n := 0) rfl rfl))

end

/-- A word accepted by an idle block comes to the end that `runWord` gives, in at most five edges more. -/
theorem reaches_runWord (s : State) (w : CmdWord) (h : Idle s) (hrst : s.rst = [])
    (hsil : ∀ j < 2, ∀ c, (s.turnAt j).reply ≠ .silent c) :
    ∃ t, runWord w s = .next t ∧ Reaches 5 (acceptWord w s) t := by
  have hr := h.running_acceptWord w
  cases hd : decode w with
  | ok i =>
    have he : Executing (shapeOf i) 0#2 (acceptWord w s) :=
      { running := hr, word := ⟨i, by simpa using hd, rfl⟩, phase := rfl, rst := hrst }
    exact ⟨_, runWord_of_decode w i s hd, he.reaches_runShape hsil⟩
  | error x =>
    have hq : wantedReq (acceptWord w s) = none := by simp [wantedReq, hd]
    have hf : finishedRsp (acceptWord w s) = rspIllegal := by simp [finishedRsp, hd]
    have he := systemEdge_finish hr hrst hq
    rw [hf] at he
    exact ⟨_, runWord_of_reserved w x s hd, .edge he (.refl 4 _)⟩

/-- Settles O48: one edge accepts the word, two carry each transaction, and one makes the response. -/
theorem clockedBlockRefinesStep : Obligations.ClockedBlockRefinesStep := by
  intro s w ws h hrst hc hsil
  obtain ⟨t, ht, hreach⟩ := reaches_runWord { s with cmds := ws } w h hrst hsil
  obtain ⟨n, hn, rfl⟩ := Reaches.edge (systemEdge_accept s w ws h hrst hc) hreach
  refine ⟨n, hn, ?_⟩
  rw [step_of_presented s w ws (by simp [rstHighAt, hrst]) h.2.1 h.1 hc, passStep_of_nil s hrst, ht]

end Sys2Proof.Machine
end

section
/-! PROOF. The record of requests: how many a step adds, and that each is on the block's own device and writable. -/

namespace Sys2Proof.Machine

/-- From `s` to `t` the device address stays, and at most `n` requests are added to the record, each on that device and none a write of
the Temperature register (rules R21, R27). -/
structure Requests (n : Nat) (s t : State) : Prop where
  devAddr : t.devAddr = s.devAddr
  bus     : ∃ l : List Txn, t.bus = s.bus ++ l ∧ l.length ≤ n ∧ ∀ x ∈ l, x.dev = s.devAddr ∧ Writable x.req

section
variable {n m : Nat} {s u t : State} {q : Req}

theorem Requests.refl (n : Nat) (s : State) : Requests n s s := ⟨rfl, [], by simp⟩

theorem Requests.mono (h : Requests n s t) (hnm : n ≤ m) : Requests m s t := by
  obtain ⟨hd, l, hb, hl, hx⟩ := h
  exact ⟨hd, l, hb, hl.trans hnm, hx⟩

/-- An operation that touches neither the record nor the device address requests nothing. -/
theorem Requests.same (h : Requests n s u) (hd : t.devAddr = u.devAddr) (hb : t.bus = u.bus) : Requests n s t :=
  ⟨hd.trans h.devAddr, hb ▸ h.bus⟩

/-- What is requested from a state counts as well from one with its record and device address. -/
theorem Requests.ofStart (h : Requests n u t) (hd : u.devAddr = s.devAddr) (hb : u.bus = s.bus) : Requests n s t :=
  ⟨h.devAddr.trans hd, hd ▸ hb ▸ h.bus⟩

/-- An operation in which the transport takes one writable request adds that one. -/
theorem Requests.snoc (h : Requests n s u) (hq : Writable q) (hd : t.devAddr = u.devAddr)
    (hb : t.bus = u.bus ++ [⟨u.devAddr, q⟩]) : Requests (n + 1) s t := by
  obtain ⟨hu, l, hl, hlen, hx⟩ := h
  refine ⟨hd.trans hu, l ++ [⟨s.devAddr, q⟩], by rw [hb, hl, hu, List.append_assoc], by simpa using hlen, ?_⟩
  intro x hmem
  rcases List.mem_append.1 hmem with hmem | hmem
  · exact hx x hmem
  · rw [List.mem_singleton.1 hmem]; exact ⟨rfl, hq⟩

theorem Requests.beginTurn (h : Requests n s u) : Requests n s (beginTurn u) := h.same rfl rfl

theorem Requests.respond (h : Requests n s u) (r : Rsp) : Requests n s (respond r u) := h.same rfl rfl

theorem Requests.raiseTfail (h : Requests n s u) (e : Byte) (r : SensorReg) (w : Bool) :
    Requests n s (raiseTfail e r w u) :=
  h.respond _

theorem Requests.blockReset (h : Requests n s u) : Requests n s (blockReset u) := h.same rfl rfl

theorem Requests.completeReq (h : Requests n s u) (hq : Writable q) : Requests (n + 1) s (completeReq q u) :=
  h.snoc hq (completeReq_devAddr q u) (completeReq_bus q u)

theorem Requests.failReq (h : Requests n s u) (hq : Writable q) (l : Bool) : Requests (n + 1) s (failReq q l u) :=
  h.snoc hq rfl rfl

/-- A request of which nothing more is heard adds one when it was taken, none when it was withdrawn. -/
theorem Requests.hangReq (h : Requests n s u) (hq : Writable q) (c : Cut) : Requests (n + 1) s (hangReq q c u) := by
  cases c with
  | withdrawn => exact h.mono n.le_succ
  | taken l => exact (h.failReq hq l).same rfl rfl

end

/-- A command makes at most its first read and its second request. -/
theorem requests_runShape (i : Instr) (s : State) : Requests 2 s (runShape (shapeOf i) s) := by
  have hcfg : Writable (.read .configuration) := fun p => by simp
  have h₁ : Requests 0 s (beginTurn s) := (Requests.refl 0 s).beginTurn
  have h₂ : Requests 1 s (afterCfgRead s) := h₁.completeReq hcfg
  apply runShape_cases
  case pure => exact fun r _ => (Requests.refl 2 s).respond r
  case firstFails => exact fun e l => ((h₁.failReq hcfg l).raiseTfail e _ _).mono one_le_two
  case firstSilent => exact fun c => (h₁.hangReq hcfg c).mono one_le_two
  case firstReset => exact fun c => (h₁.hangReq hcfg c).blockReset.mono one_le_two
  case oneRead => exact fun r _ => (h₂.respond r).mono one_le_two
  case second => exact fun q hq r _ => (h₂.beginTurn.completeReq hq).respond r
  case secondFails => exact fun q hq e l => (h₂.beginTurn.failReq hq l).raiseTfail e _ _
  case secondSilent => exact fun q hq c => h₂.beginTurn.hangReq hq c
  case secondReset => exact fun q hq c => (h₂.beginTurn.hangReq hq c).blockReset
  case writable => exact fun r c => writeCount_reg i r c

theorem requests_runWord {w : CmdWord} {s t : State} (h : runWord w s = .next t) : Requests 2 s t := by
  cases hd : decode w with
  | ok i =>
    rw [runWord_of_decode w i s hd] at h; cases h
    exact (requests_runShape i (acceptWord w s)).ofStart rfl rfl
  | error x =>
    rw [runWord_of_reserved w x s hd] at h; cases h
    exact (Requests.refl 2 s).same rfl rfl

theorem requests_step {s t : State} (h : step s = .next t) : Requests 2 s t := by
  rcases step_cases h with ⟨-, rfl⟩ | ⟨-, -, -, r, -, rfl⟩ | ⟨-, rfl, -⟩ | ⟨-, -, -, w, ws, -, hw⟩
  · exact (Requests.refl 2 s).same rfl rfl
  · exact (Requests.refl 2 s).same rfl rfl
  · exact (Requests.refl 2 s).same rfl rfl
  · exact (requests_runWord hw).ofStart rfl rfl

/-- Settles O40: only an accepted command makes requests, and it makes at most two, each writable and on the block's own device. -/
theorem transactionsAreBounded : Obligations.TransactionsAreBounded :=
  fun _ _ h => ⟨(requests_step h).devAddr, (requests_step h).bus⟩

end Sys2Proof.Machine
end

section
/-! PROOF. Waiting: a transaction that is never answered, and a response that is never taken (U8). -/

namespace Sys2Proof.Machine

@[simp] theorem hangReq_rst (q : Req) (c : Cut) (s : State) : (hangReq q c s).rst = s.rst := by
  cases c <;> rfl

theorem memRead_silent (r : SensorReg) (s : State) (k : Pair → State → State) (c : Cut)
    (h : (s.turnAt 0).reply = .silent c) : memRead r s k = hangReq (.read r) c (beginTurn s) := by
  simp [memRead, transact_silent _ _ _ h]

theorem memWrite_silent (r : SensorReg) (p : Pair) (s : State) (k : State → State) (c : Cut)
    (h : (s.turnAt 0).reply = .silent c) : memWrite r p s k = hangReq (.write r p) c (beginTurn s) := by
  simp [memWrite, transact_silent _ _ _ h]

theorem rstHighAt_of_nil (s : State) (k : Nat) (h : s.rst = []) : rstHighAt s k = false := by
  simp [rstHighAt, h]

/-- A busy block without a response is left as it is by a step on a quiet `rst` line (log entry 8). -/
theorem step_of_busy_of_nil (s : State) (hrst : s.rst = []) (hb : s.busy = true) (hp : s.rspPending = false) :
    step s = .next s := by
  rw [step_of_busy s (rstHighAt_of_nil s 0 hrst) hp hb, passStep_of_nil s hrst]

/-- So is a block whose response the host does not take. -/
theorem step_of_untaken_of_nil (s : State) (hrst : s.rst = []) (hp : s.rspPending = true) (hh : s.rspReady = false) :
    step s = .next s := by
  rw [step_of_untaken s (rstHighAt_of_nil s 0 hrst) hp hh, passStep_of_nil s hrst]

/-- A command that ends in an unanswered request, made while the block is busy without a response, waits. -/
theorem waits_of_hangReq {i : Instr} {s u : State} {q : Req} {c : Cut} (h : runShape (shapeOf i) s = hangReq q c u)
    (hrst : u.rst = []) (hb : u.busy = true) (hp : u.rspPending = false) : Waits i s := by
  have hb' : (hangReq q c u).busy = true := by rw [hangReq_busy, hb]
  have hp' : (hangReq q c u).rspPending = false := by rw [hangReq_rspPending, hp]
  exact ⟨_, by rw [exec_eq_runShape, h], hb', hp', step_of_busy_of_nil _ (by rw [hangReq_rst, hrst]) hb' hp'⟩

theorem waits_of_first_silent {i : Instr} {s : State} {c : Cut} (hrst : s.rst = []) (hb : s.busy = true)
    (hp : s.rspPending = false) (hi : Sequenced i) (h0 : (s.turnAt 0).reply = .silent c) : Waits i s :=
  waits_of_hangReq (runShape_first i hi fun k => memRead_silent .configuration s k c h0) hrst hb hp

theorem waits_of_second_silent {i : Instr} {s : State} {q : Req} {c : Cut} (hrst : s.rst = []) (hb : s.busy = true)
    (hp : s.rspPending = false) (hq : requestAt i 1#2 (seenNow s .configuration) = some q)
    (h0 : (s.turnAt 0).reply = .ok) (h1 : (s.turnAt 1).reply = .silent c) : Waits i s := by
  have h1' : ((afterCfgRead s).turnAt 0).reply = .silent c := by simpa using h1
  have hend : runShape (shapeOf i) s = hangReq q c (beginTurn (afterCfgRead s)) := by
    rcases runShape_second i q hq h0 with ⟨r, k, rfl, hk⟩ | ⟨r, p, k, rfl, hk⟩
    · rw [hk, memRead_silent r _ k c h1']
    · rw [hk, memWrite_silent r p _ k c h1']
  exact waits_of_hangReq hend hrst hb hp

/-- Settles O41: an unanswered request leaves the block busy without a response, and a step leaves such a block, and one whose response
is not taken, as it is. -/
theorem unansweredCommandWaits : Obligations.UnansweredCommandWaits :=
  fun s hrst =>
    ⟨fun _ _ hb hp hi h0 => waits_of_first_silent hrst hb hp hi h0,
     fun _ _ _ hb hp hq h0 h1 => waits_of_second_silent hrst hb hp hq h0 h1,
     fun hp hh => step_of_untaken_of_nil s hrst hp hh⟩

end Sys2Proof.Machine
end

section
/-! PROOF. Encoding and decoding: the operands of a command and its argument determine each other (rules R40 to R47). -/

namespace Sys2Proof.Machine

/-! ### Operands by format (rule R42) -/

/-- The operands of a command, by argument format. -/
inductive Operands where
  | pair (b0 b1 : Byte)
  | cel (c : Int)
  | cnt (pin : Bool) (n : Int)
  | img (p : Pair)
  | imgv (p : Pair) (v : BitVec 16)
  | val (v : BitVec 32)
  | none

/-- The format the operands are of. -/
def Operands.format : Operands → ArgFormat
  | .pair _ _ => .pair
  | .cel _ => .cel
  | .cnt _ _ => .cnt
  | .img _ => .img
  | .imgv _ _ => .imgv
  | .val _ => .val
  | .none => .none

/-- An integer operand lies in the range of its field. -/
def Operands.wellFormed : Operands → Bool
  | .cel c => isCelsiusIn c
  | .cnt _ n => isCount n
  | _ => true

/-- The argument the operands are written as. -/
def Operands.bits : Operands → BitVec 32
  | .pair b0 b1 => putPair b0 b1
  | .cel c => putCelsius c
  | .cnt pin n => putCount pin n
  | .img p => putImage p
  | .imgv p v => putImageValue p v
  | .val v => v
  | .none => 0#32

/-- The operands of a format, cut from an argument. -/
def Operands.read (arg : BitVec 32) : ArgFormat → Operands
  | .pair => .pair (argByte0 arg) (argByte1 arg)
  | .cel => .cel (argCelsius arg)
  | .cnt => .cnt (argPresent arg) (argCount arg)
  | .img => .img (argImage arg)
  | .imgv => .imgv (argImage arg) (argImageValue arg)
  | .val => .val arg
  | .none => .none

/-- The operands as a line writes them (rule R47). -/
def Operands.line : Operands → AsmOperands
  | .pair b0 b1 => .bytes b0.toNat b1.toNat
  | .cel c => .celsius c
  | .cnt pin n => if pin then .count n else .absent
  | .img p => lineOfImage p
  | .imgv p v => lineOfImageValue p v
  | .val v => .value v.toNat
  | .none => .nothing

theorem Operands.wellFormed_read (arg : BitVec 32) (f : ArgFormat) : (read arg f).wellFormed = true := by
  cases f with
  | cel => exact isCelsiusIn_argCelsius arg
  | cnt => exact isCount_argCount arg
  | _ => rfl

/-- Cutting the operands and writing them again clears the ignored bits and keeps the others. -/
theorem Operands.bits_read (arg : BitVec 32) (f : ArgFormat) : (read arg f).bits = arg &&& ~~~(ignoredBits f) := by
  have hall : arg &&& ~~~0#32 = arg := BitVec.and_allOnes
  cases f with
  | pair => exact putPair_args arg
  | cel => exact (putCelsius_argCelsius arg).trans hall.symm
  | cnt => exact putCount_args arg
  | img => exact putImage_argImage arg
  | imgv => exact (putImageValue_args arg).trans hall.symm
  | val => exact hall.symm
  | none => exact BitVec.and_zero.symm

/-- Operands in range are cut back from the argument they are written as. -/
theorem Operands.read_bits (o : Operands) (h : o.wellFormed = true) : read o.bits o.format = o := by
  cases o with
  | cel c => exact congrArg cel (argCelsius_putCelsius c h)
  | cnt pin n => exact congrArg₂ cnt (argPresent_putCount pin n) (argCount_putCount pin n h)
  | _ => simp [format, bits, read]

/-! ### The operands of the 40 commands -/

/-- The operands of a command. -/
def operandsOf : Instr → Operands
  | .decN b0 b1 => .pair b0 b1
  | .decE b0 b1 => .pair b0 b1
  | .encN c => .cel c
  | .encE c => .cel c
  | .c2f pin n => .cnt pin n
  | .fgetSd img => .img img
  | .fgetTm img => .img img
  | .fgetPol img => .img img
  | .fgetFq img => .img img
  | .fgetOs img => .img img
  | .fgetEm img => .img img
  | .fgetAl img => .img img
  | .fgetCr img => .img img
  | .fsetSd img v => .imgv img v
  | .fsetTm img v => .imgv img v
  | .fsetPol img v => .imgv img v
  | .fsetFq img v => .imgv img v
  | .ftrigOs img => .img img
  | .fsetEm img v => .imgv img v
  | .fsetCr img v => .imgv img v
  | .wrTlow c => .cel c
  | .wrThigh c => .cel c
  | .csetSd v => .val v
  | .csetTm v => .val v
  | .csetPol v => .val v
  | .csetFq v => .val v
  | .csetEm v => .val v
  | .csetCr v => .val v
  | _ => .none

theorem argBits_eq_bits (i : Instr) : i.argBits = (operandsOf i).bits := by cases i <;> rfl

theorem wellFormed_eq_operandsOf (i : Instr) : i.wellFormed = (operandsOf i).wellFormed := by cases i <;> rfl

theorem lineOf_eq_line (i : Instr) : lineOf i = (operandsOf i).line := by cases i <;> rfl

/-- C2F alone has a count for its operand. -/
theorem operandsOf_eq_cnt {i : Instr} {pin : Bool} {n : Int} : operandsOf i = .cnt pin n ↔ i = .c2f pin n := by
  cases i <;> simp [operandsOf]

/-- The code of a command decodes, whatever the argument (rule R45). -/
theorem exists_decodeOp_opCode (i : Instr) (arg : BitVec 32) : ∃ j, decodeOp i.opCode arg = .ok j := by
  cases i <;> exact ⟨_, rfl⟩

/-- What decodes has the code it was decoded from, and its operands are cut from the argument. -/
theorem decodeOp_eq_ok {op : BitVec 8} {arg : BitVec 32} {i : Instr} (h : decodeOp op arg = .ok i) :
    i.opCode = op ∧ operandsOf i = .read arg (operandsOf i).format := by
  unfold decodeOp at h
  split at h <;> cases h <;> exact ⟨rfl, rfl⟩

/-- A command with operands in range is decoded from its own code and argument: by formats, the operands cut are those written. -/
theorem decodeOp_argBits (i : Instr) (h : i.wellFormed = true) : decodeOp i.opCode i.argBits = .ok i := by
  cases i with
  | decN b0 b1 | decE b0 b1 =>
    exact congrArg Except.ok (congrArg₂ _ (argByte0_putPair b0 b1) (argByte1_putPair b0 b1))
  | encN c | encE c | wrTlow c | wrThigh c => exact congrArg Except.ok (congrArg _ (argCelsius_putCelsius c h))
  | c2f pin n => exact congrArg Except.ok (congrArg₂ _ (argPresent_putCount pin n) (argCount_putCount pin n h))
  | fgetSd img | fgetTm img | fgetPol img | fgetFq img | fgetOs img | fgetEm img | fgetAl img | fgetCr img | ftrigOs img =>
    exact congrArg Except.ok (congrArg _ (argImage_putImage img))
  | fsetSd img v | fsetTm img v | fsetPol img v | fsetFq img v | fsetEm img v | fsetCr img v =>
    exact congrArg Except.ok (congrArg₂ _ (argImage_putImageValue img v) (argImageValue_putImageValue img v))
  | _ => rfl

/-- Settles O1: the word is cut into the code and argument it was made of, and these decode to the command. -/
theorem decodeOfEncode : Obligations.DecodeOfEncode := by
  intro i h
  rw [decode, opOf_encode, argOf_encode, decodeOp_argBits i h]

/-! ### The rows of the map (rule R43) -/

theorem find?_row_of_mem : ∀ r ∈ opTable, opTable.find? (fun x => x.op == r.op) = some r := by decide

/-- Every command has its row, with its argument format. -/
theorem exists_row (i : Instr) :
    ∃ r, opTable.find? (fun x => x.op == i.opCode) = some r ∧ r.arg = (operandsOf i).format := by
  cases i <;> exact ⟨_, rfl, rfl⟩

/-- A row with the code of a command has its argument format. -/
theorem arg_of_row {r : OpRow} (hr : r ∈ opTable) {i : Instr} (h : i.opCode = r.op) : r.arg = (operandsOf i).format := by
  obtain ⟨r', hf, ha⟩ := exists_row i
  rw [h, find?_row_of_mem r hr] at hf
  cases hf
  exact ha

/-- The code of every row decodes. -/
theorem exists_decodeOp_of_row {r : OpRow} (hr : r ∈ opTable) (arg : BitVec 32) : ∃ i, decodeOp r.op arg = .ok i := by
  have hall : ∀ r ∈ opTable, (decodeOp r.op 0#32).toOption.isSome = true := by decide
  cases hd : decodeOp r.op 0#32 with
  | error x => simpa [hd, Except.toOption] using hall r hr
  | ok i => rw [← (decodeOp_eq_ok hd).1]; exact exists_decodeOp_opCode i arg

/-- The encoding of what a row's code and an argument decode to is that code and the argument with the row's ignored bits cleared. -/
theorem encode_of_decodeOp {r : OpRow} (hr : r ∈ opTable) {arg : BitVec 32} {i : Instr} (h : decodeOp r.op arg = .ok i) :
    encode i = r.op ++ (arg &&& ~~~(ignoredBits r.arg)) := by
  obtain ⟨hop, ho⟩ := decodeOp_eq_ok h
  rw [encode, hop, argBits_eq_bits, ho, Operands.bits_read, arg_of_row hr hop]

theorem wellFormed_of_decodeOp {op : BitVec 8} {arg : BitVec 32} {i : Instr} (h : decodeOp op arg = .ok i) :
    i.wellFormed = true := by
  rw [wellFormed_eq_operandsOf, (decodeOp_eq_ok h).2, Operands.wellFormed_read]

/-- Settles O2: the operands are those cut from the argument, and writing them again clears the ignored bits. -/
theorem encodeOfDecode : Obligations.EncodeOfDecode := by
  intro w i h
  have hw := wellFormed_of_decodeOp h
  refine ⟨hw, (decodeOp_eq_ok h).1, (decodeOfEncode i hw).trans h.symm, fun r hr hop => ?_⟩
  rw [← hop]
  exact encode_of_decodeOp hr (hop ▸ h)

/-- Settles O4: every command has its row, and the code of every row decodes whatever the argument. -/
theorem opAloneDecides : Obligations.OpAloneDecides := by
  refine ⟨fun w => ⟨fun ⟨i, h⟩ => ?_, fun ⟨r, hr, hop⟩ => ?_⟩, rfl, by decide⟩
  · obtain ⟨r, hf, -⟩ := exists_row i
    have hop : r.op = i.opCode := by simpa using List.find?_some hf
    exact ⟨r, List.mem_of_find?_eq_some hf, hop.trans (decodeOp_eq_ok h).1⟩
  · rw [decode, ← hop]
    exact exists_decodeOp_of_row hr (argOf w)

/-! ### Assembled lines (rule R47) -/

/-- The operands a line stands for: those it writes, or for a number of degrees the CelsiusIn, or for the word `absent` a count of 0. -/
def LineOperands (x : AsmOperands) (o : Operands) : Prop :=
  match x with
  | .degrees num den => den ≠ 0 ∧ o.line = .celsius ((num * 65536).tdiv den)
  | .absent => o = .cnt false 0
  | x => o.line = x

theorem lineGives_of_lineOperands {x : AsmOperands} {i : Instr} (h : LineOperands x (operandsOf i)) : LineGives x i := by
  cases x with
  | absent => exact operandsOf_eq_cnt.1 h
  | degrees num den => exact ⟨h.1, (lineOf_eq_line i).trans h.2⟩
  | _ => exact (lineOf_eq_line i).trans h

/-- Two bytes below 256 are those of the image they form. -/
theorem toNat_pairOf_ofNat {b0 b1 : Nat} (h0 : b0 < 256) (h1 : b1 < 256) :
    (pairOf (.ofNat 8 b0) (.ofNat 8 b1)).toNat / 256 = b0 ∧ (pairOf (.ofNat 8 b0) (.ofNat 8 b1)).toNat % 256 = b1 := by
  rw [toNat_pairOf, BitVec.toNat_ofNat, BitVec.toNat_ofNat]
  omega

/-- The argument of a line is that of operands of the row's format, in range, for which the line stands. -/
theorem exists_operands_of_asmArg {f : ArgFormat} {x : AsmOperands} {a : BitVec 32} (h : asmArg f x = some a) :
    ∃ o : Operands, o.format = f ∧ o.wellFormed = true ∧ o.bits = a ∧ LineOperands x o := by
  -- The cases are the rows of `asmArg` in its order.
  unfold asmArg at h
  split at h
  case h_1 b0 b1 =>
    obtain ⟨⟨h0, h1⟩, ⟨⟩⟩ := Option.ite_none_right_eq_some.1 h
    exact ⟨.pair (.ofNat 8 b0) (.ofNat 8 b1), rfl, rfl, rfl, by
      simp [LineOperands, Operands.line, Nat.mod_eq_of_lt, h0, h1]⟩
  case h_2 b0 b1 =>
    obtain ⟨⟨h0, h1⟩, ⟨⟩⟩ := Option.ite_none_right_eq_some.1 h
    exact ⟨.img _, rfl, rfl, rfl, by
      simp [LineOperands, Operands.line, lineOfImage, toNat_pairOf_ofNat h0 h1]⟩
  case h_3 b0 b1 v =>
    obtain ⟨⟨h0, h1, hv⟩, ⟨⟩⟩ := Option.ite_none_right_eq_some.1 h
    exact ⟨.imgv _ _, rfl, rfl, rfl, by
      simp [LineOperands, Operands.line, lineOfImageValue, toNat_pairOf_ofNat h0 h1, Nat.mod_eq_of_lt, hv]⟩
  case h_4 c =>
    obtain ⟨hc, ⟨⟩⟩ := Option.ite_none_right_eq_some.1 h
    exact ⟨.cel c, rfl, hc, rfl, rfl⟩
  case h_5 num den =>
    obtain ⟨hd, h⟩ := Option.ite_none_left_eq_some.1 h
    obtain ⟨hc, ⟨⟩⟩ := Option.ite_none_right_eq_some.1 h
    exact ⟨.cel _, rfl, hc, rfl, hd, congrArg AsmOperands.celsius (trunc0_eq_tdiv _ _)⟩
  case h_6 n =>
    obtain ⟨hn, ⟨⟩⟩ := Option.ite_none_right_eq_some.1 h
    exact ⟨.cnt true n, rfl, hn, rfl, rfl⟩
  case h_7 => cases h; exact ⟨.cnt false 0, rfl, rfl, rfl, rfl⟩
  case h_8 v =>
    obtain ⟨hv, ⟨⟩⟩ := Option.ite_none_right_eq_some.1 h
    exact ⟨.val (.ofNat 32 v), rfl, rfl, rfl, by simp [LineOperands, Operands.line, Nat.mod_eq_of_lt, hv]⟩
  case h_9 => cases h; exact ⟨.none, rfl, rfl, rfl, rfl⟩
  case h_10 => cases h

/-- The bytes of an image, as a line writes them, form it. -/
theorem pairOf_lineBytes (img : Pair) : pairOf (.ofNat 8 (img.toNat / 256)) (.ofNat 8 (img.toNat % 256)) = img := by
  rw [← toNat_byte0, ← toNat_byte1, BitVec.ofNat_toNat, BitVec.ofNat_toNat, BitVec.setWidth_eq, BitVec.setWidth_eq,
    pairOf_bytes]

/-- Operands in range have their line, but an absent count other than 0. -/
theorem asmArg_line (o : Operands) (h : o.wellFormed = true) (h0 : ∀ n, o = .cnt false n → n = 0) :
    asmArg o.format o.line = some o.bits := by
  cases o with
  | pair b0 b1 => simp [Operands.format, Operands.line, Operands.bits, asmArg, b0.isLt, b1.isLt]
  | cel c => exact if_pos h
  | cnt pin n =>
    cases pin with
    | true => exact if_pos h
    | false => rw [h0 n rfl]; rfl
  | img p =>
    have h1 : p.toNat / 256 < 256 := by omega
    have h2 : p.toNat % 256 < 256 := by omega
    simp [Operands.format, Operands.line, Operands.bits, lineOfImage, asmArg, h1, h2, pairOf_lineBytes]
  | imgv p v =>
    have h1 : p.toNat / 256 < 256 := by omega
    have h2 : p.toNat % 256 < 256 := by omega
    simp [Operands.format, Operands.line, Operands.bits, lineOfImageValue, asmArg, h1, h2, v.isLt, pairOf_lineBytes]
  | val v => simp [Operands.format, Operands.line, Operands.bits, asmArg, v.isLt]
  | none => rfl

/-- Settles O5: the row's code and the line's argument decode to a command whose operands are those the line stands for; and a command's
own line is assembled from its operands. -/
theorem assembledLineEncodes : Obligations.AssembledLineEncodes := by
  refine fun r hr => ⟨fun x w hx => ?_, fun i hi hop h0 => ?_⟩
  · obtain ⟨a, ha, rfl⟩ := Option.map_eq_some_iff.1 hx
    obtain ⟨o, hf, how, rfl, hl⟩ := exists_operands_of_asmArg ha
    obtain ⟨i, hi⟩ := exists_decodeOp_of_row hr o.bits
    obtain ⟨hop, ho⟩ := decodeOp_eq_ok hi
    have hio : operandsOf i = o := by rw [ho, ← arg_of_row hr hop, ← hf, o.read_bits how]
    refine ⟨i, wellFormed_of_decodeOp hi, hop, lineGives_of_lineOperands (hio ▸ hl), ?_, ?_⟩
    · rw [encode, hop, argBits_eq_bits, hio]
    · rw [decode, opOf_append, argOf_append, hi]
  · have hw := (wellFormed_eq_operandsOf i).symm.trans hi
    have ha := asmArg_line (operandsOf i) hw fun n hn => h0 n (operandsOf_eq_cnt.1 hn)
    rw [assemble, lineOf_eq_line, arg_of_row hr hop, ha, encode, argBits_eq_bits, ← hop]
    rfl

/-- Settles O3: each word, cut and looked up. -/
theorem writtenWordsDecode : Obligations.WrittenWordsDecode := ⟨rfl, rfl, rfl, rfl, rfl, rfl, rfl⟩

end Sys2Proof.Machine
end

section
/-! PROOF. The pseudo-commands (rule R48): what they begin with, and what the host makes of the first response. -/

namespace Sys2Proof.Machine

/-- A Fahrenheit read begins with the read of its register. -/
theorem shapeOf_pseudoFirst {g : Pseudo × SensorReg} (hg : g ∈ fahrenheitReads) :
    shapeOf (pseudoFirst g.1) = .readCount g.2 := by
  simp only [fahrenheitReads, List.mem_cons, List.not_mem_nil, or_false] at hg
  rcases hg with rfl | rfl | rfl <;> rfl

/-- After any other status than OK a Fahrenheit read has no second command, after OK it is the C2F of the response. -/
theorem pseudoSecond_of_mem {g : Pseudo × SensorReg} (hg : g ∈ fahrenheitReads) (r : Rsp) :
    pseudoSecond g.1 r = if r.status = .ok then some (followC2f r) else none := by
  simp only [fahrenheitReads, List.mem_cons, List.not_mem_nil, or_false] at hg
  rcases hg with rfl | rfl | rfl <;> rfl

/-- The count the host carries is the signed low half of the data. -/
theorem toInt_lowHalf (data : BitVec 32) : (data.extractLsb' 0 16).toInt = signedOf 16 (data.toNat % 65536) := by
  rw [← signedOf_toNat, BitVec.extractLsb'_toNat]
  rfl

/-- Settles O31: the commands they begin with by definition, the Fahrenheit reads by the status of the first response. -/
theorem pseudoCommandsExpand : Obligations.PseudoCommandsExpand := by
  refine ⟨rfl, rfl, rfl, rfl, rfl, rfl, rfl, fun p hp r => ?_, fun g hg r => ⟨fun h => ?_, fun h => ?_⟩⟩
  · simp only [List.mem_cons, List.not_mem_nil, or_false] at hp
    rcases hp with rfl | rfl | rfl | rfl <;> rfl
  · rw [pseudoSecond_of_mem hg, if_pos h, followC2f, toInt_lowHalf]
  · rw [pseudoSecond_of_mem hg, if_neg h]

/-! ### A Fahrenheit read whose first command ends OK -/

/-- The conversion of a 16-bit count fits the 20 bits of the result (rules R65, R67). -/
theorem toNat_fahrenheit (n : Count) :
    ((BitVec.ofInt 20 (c2fUnits n.toInt)).signExtend 32).toNat = twosOf 32 (9 * n.toInt + 2560) := by
  have h1 := BitVec.le_toInt n
  have h2 := BitVec.toInt_lt (x := n)
  have h : (BitVec.ofInt 20 (c2fUnits n.toInt)).toInt = 9 * n.toInt + 2560 := by
    rw [c2fUnits]
    exact BitVec.toInt_ofInt_eq_self (by decide) (by norm_num at h1 ⊢; omega) (by norm_num at h2 ⊢; omega)
  rw [← twosOf_toInt, BitVec.toInt_signExtend_of_le (by decide), h]

/-- The low half of a count's response is the count. -/
theorem extractLsb'_signExtend (n : Count) : (n.signExtend 32).extractLsb' 0 16 = n := by
  apply BitVec.eq_of_getLsbD_eq
  intro i hi
  simp [BitVec.getElem_signExtend, hi, show i < 32 by omega]

/-- A pair is the sentinel and decodes to no count, or decodes to its count (rules R60, R61). -/
theorem decodeTemp_cases (p : Pair) (em : Bool) :
    (p.toNat = 65535 ∧ decodeTemp p em = none) ∨
    (p.toNat ≠ 65535 ∧ ∃ n, decodeTemp p em = some n ∧ n.toInt = countOf p.toNat em) := by
  unfold decodeTemp
  by_cases h : isSentinel p = true
  · exact .inl ⟨congrArg BitVec.toNat ((isSentinel_iff p).1 h), if_pos h⟩
  · have hp : p.toNat ≠ 65535 := fun hp => h ((isSentinel_iff p).2 (BitVec.eq_of_toNat_eq hp))
    exact .inr ⟨hp, _, if_neg h, toInt_pattern p em⟩

/-- The C2F of a count's response converts that count, and of an absent response is absent. -/
theorem exec_followC2f (p : Pair) (em : Bool) (s : State) :
    ∃ t, exec (followC2f (dCnt (decodeTemp p em))) s = .next t ∧
      if p.toNat = 65535 then Response t 0 0 0 0
      else Response t 0 1 0 (twosOf 32 (9 * countOf p.toNat em + 2560)) := by
  refine ⟨_, rfl, ?_⟩
  rcases decodeTemp_cases p em with ⟨hp, hd⟩ | ⟨hp, n, hd, hn⟩
  · rw [if_pos hp, hd]
    exact response_respond _ _
  · rw [if_neg hp, hd, ← hn, ← toNat_fahrenheit]
    simp only [dCnt, rspOk, extractLsb'_signExtend]
    exact response_respond _ _

/-- Settles O32: the read ends with its count's response, from which the host makes the C2F. -/
theorem fahrenheitReadComposes : Obligations.FahrenheitReadComposes := by
  intro g hg s h
  have hx : exec (pseudoFirst g.1) s = .next (readAndDecode g.2 s) := by
    rw [exec_eq_runShape, shapeOf_pseudoFirst hg]; rfl
  rw [readAndDecode_ok g.2 s h, emOf_eq] at hx
  obtain ⟨u, hu, hr⟩ := exec_followC2f (seenSecond s g.2) (bitsGet 4 1 (seenNow s .configuration).toNat == 1) _
  have hok : ∀ n, (dCnt n).status = .ok := fun n => by cases n <;> rfl
  exact ⟨_, _, _, u, hx, readRsp_rspWord _, by rw [pseudoSecond_of_mem hg, if_pos (hok _)], hu, hr⟩

/-! ### A Fahrenheit read whose first command fails -/

/-- A read that fails at its first or second transaction ends TFAIL with the transport's code. -/
theorem readAndDecode_fail (r : SensorReg) (s : State) (e : Byte) (l : Bool)
    (h : (s.turnAt 0).reply = .fail e l ∨ (s.turnAt 0).reply = .ok ∧ (s.turnAt 1).reply = .fail e l) :
    ∃ r' u, readAndDecode r s = raiseTfail e r' false u := by
  unfold readAndDecode
  rcases h with h0 | ⟨h0, h1⟩
  · exact ⟨_, _, memRead_fail _ s _ e l h0⟩
  · have h1' : ((afterCfgRead s).turnAt 0).reply = .fail e l := by simpa using h1
    rw [memRead_ok _ s _ h0]
    exact ⟨_, _, memRead_fail r (afterCfgRead s) _ e l h1'⟩

/-- Settles O33: the failed read ends TFAIL, after which there is no second command. -/
theorem fahrenheitReadStopsOnFailure : Obligations.FahrenheitReadStopsOnFailure := by
  intro g hg s e l h
  obtain ⟨r, u, hu⟩ := readAndDecode_fail g.2 s e l h
  refine ⟨raiseTfail e r false u, rspTfail e (regAddr r) false, ?_, rfl, readRsp_rspWord _, rfl, rfl, ?_⟩
  · rw [exec_eq_runShape, shapeOf_pseudoFirst hg, ← hu]; rfl
  · rw [pseudoSecond_of_mem hg]; rfl

end Sys2Proof.Machine
end

section
/-! PROOF. One response for each command accepted (rules R41, R157): a command whose transactions are answered ends with one. -/

namespace Sys2Proof.Machine

/-- The `k`-th coming transaction is answered, by success or failure. -/
def SettledAt (k : Nat) (s : State) : Prop := (s.turnAt k).reply = .ok ∨ ∃ e l, (s.turnAt k).reply = .fail e l

/-- A block that was running a command at `s` has made its response at `t`, and the host is as it was. -/
structure Responded (s t : State) : Prop where
  busy       : t.busy = true
  rspPending : t.rspPending = true
  reqTaken   : t.reqTaken = false
  rsp        : ∃ r, t.rsp = rspWord r
  cmds       : t.cmds = s.cmds
  rspReady   : t.rspReady = s.rspReady
  rst        : t.rst = s.rst
  taken      : t.taken = s.taken

section
variable {s t : State}

theorem Running.responded (h : Running s) (r : Rsp) : Responded s (respond r s) :=
  { busy := h.busy, rspPending := rfl, reqTaken := h.reqTaken, rsp := ⟨r, rfl⟩
    cmds := rfl, rspReady := rfl, rst := rfl, taken := rfl }

/-- A failed transaction makes the response. -/
theorem responded_raiseTfail (h : Running s) (q : Req) (l : Bool) (e : Byte) (r : SensorReg) (w : Bool) :
    Responded s (raiseTfail e r w (failReq q l (beginTurn s))) :=
  { (h.beginTurn.failReq q l).responded (rspTfail e (regAddr r) w) with }

/-- A completed transaction leaves the response to the rest of the command. -/
theorem Responded.of_completeReq {q : Req} (h : Responded (completeReq q (beginTurn s)) t) : Responded s t :=
  { h with
    cmds := by simpa using h.cmds
    rspReady := by simpa using h.rspReady
    rst := by simpa using h.rst
    taken := by simpa using h.taken }

variable (h : Running s) (h0 : SettledAt 0 s)
include h h0

theorem responded_memRead (r : SensorReg) {k : Pair → State → State}
    (hk : ∀ p, Responded (completeReq (.read r) (beginTurn s)) (k p (completeReq (.read r) (beginTurn s)))) :
    Responded s (memRead r s k) := by
  rcases h0 with h0 | ⟨e, l, h0⟩
  · rw [memRead_ok r s k h0]; exact (hk _).of_completeReq
  · rw [memRead_fail r s k e l h0]; exact responded_raiseTfail h _ l e r false

theorem responded_memWrite (r : SensorReg) (p : Pair) {k : State → State}
    (hk : Responded (completeReq (.write r p) (beginTurn s)) (k (completeReq (.write r p) (beginTurn s)))) :
    Responded s (memWrite r p s k) := by
  rcases h0 with h0 | ⟨e, l, h0⟩
  · rw [memWrite_ok r p s k h0]; exact hk.of_completeReq
  · rw [memWrite_fail r p s k e l h0]; exact responded_raiseTfail h _ l e r true

/-- A command whose transactions are answered makes its response. -/
theorem responded_runShape (h1 : SettledAt 1 s) (x : Shape) : Responded s (runShape x s) := by
  have hr : ∀ q, Running (completeReq q (beginTurn s)) := fun q => h.beginTurn.completeReq q
  have hr' : ∀ q, Running (completeReq q (beginTurn (afterCfgRead s))) := fun q => h.afterCfgRead.beginTurn.completeReq q
  have h1' : SettledAt 0 (afterCfgRead s) := by simpa [SettledAt] using h1
  cases x with
  | pure r => exact h.responded r
  | getField f => exact responded_memRead h h0 _ fun p => (hr _).responded _
  | readCount r =>
    exact responded_memRead h h0 _ fun p => responded_memRead h.afterCfgRead h1' _ fun p => (hr' _).responded _
  | writeCount r c =>
    exact responded_memRead h h0 _ fun p => responded_memWrite h.afterCfgRead h1' _ _ ((hr' _).responded _)
  | setField f v =>
    exact responded_memRead h h0 _ fun p => responded_memWrite h.afterCfgRead h1' _ _ ((hr' _).responded _)

end

/-- So does a word accepted by an idle block; a reserved code has no transaction. -/
theorem responded_runWord {s : State} (h : Idle s) (h0 : SettledAt 0 s) (h1 : SettledAt 1 s) (w : CmdWord) :
    ∃ t, runWord w s = .next t ∧ Responded (acceptWord w s) t := by
  have hr := h.running_acceptWord w
  have h0' : SettledAt 0 (acceptWord w s) := by simpa [SettledAt] using h0
  have h1' : SettledAt 1 (acceptWord w s) := by simpa [SettledAt] using h1
  cases hd : decode w with
  | ok i => exact ⟨_, runWord_of_decode w i s hd, responded_runShape hr h0' h1' _⟩
  | error x => exact ⟨_, runWord_of_reserved w x s hd, hr.responded _⟩

/-- The step in which a ready host takes a response. -/
theorem step_of_response {t : State} {r : Rsp} (hr : rstHighAt t 0 = false) (hp : t.rspPending = true)
    (hh : t.rspReady = true) (hw : t.rsp = rspWord r) :
    step t = .next { releaseRsp (passStep t) with taken := t.taken ++ [r] } := by
  rw [step_of_ready t hr hp hh, takeRsp_eq_next]
  exact ⟨r, by rw [passStep_rsp, hw, readRsp_rspWord], rfl⟩

theorem rstHighAt_of_tail {s t : State} (h : t.rst = s.rst.tail) (k : Nat) : rstHighAt t k = rstHighAt s (k + 1) := by
  rw [rstHighAt, rstHighAt, h, List.getD_eq_getElem?_getD, List.getD_eq_getElem?_getD, List.getElem?_tail]

/-- Settles O38: the first step runs the word to its response, the second takes that response. -/
theorem oneResponsePerCommand : Obligations.OneResponsePerCommand := by
  intro s w ws h hrst hc hready hturns
  have h' : Idle { passStep s with cmds := ws } := h
  obtain ⟨t, ht, hres⟩ := responded_runWord h' (hturns 0 (by decide)) (hturns 1 (by decide)) w
  obtain ⟨r, hr⟩ := hres.rsp
  rw [← step_of_presented s w ws (hrst 0 (by decide)) h.2.1 h.1 hc] at ht
  have hrst' : rstHighAt t 0 = false := by rw [rstHighAt_of_tail hres.rst, hrst 1 (by decide)]
  refine ⟨t, _, r, ht, hres.busy, hres.rspPending, hres.taken, by rw [hr, readRsp_rspWord],
    step_of_response hrst' hres.rspPending (hres.rspReady.trans hready) hr, ⟨rfl, rfl, hres.reqTaken⟩, hres.cmds, ?_⟩
  rw [hres.taken]
  rfl

end Sys2Proof.Machine
end

section
/-! PROOF. The temperature decoder: DEC.N, DEC.E and C2F (rules R60 to R63, R65, R67), each a pure command. -/

namespace Sys2Proof.Machine

/-! ### The words, with any value in the ignored bits (rule R42) -/

theorem decode_append (op : BitVec 8) (arg : BitVec 32) : decode (op ++ arg) = decodeOp op arg := by
  rw [decode, opOf_append, argOf_append]

theorem argByte0_append (x : BitVec 16) (b0 b1 : Byte) : argByte0 (x ++ b0 ++ b1) = b0 :=
  (BitVec.extractLsb'_append_eq_of_le (Nat.le_refl 8)).trans BitVec.extractLsb'_append_eq_right

theorem argByte1_append (x : BitVec 16) (b0 b1 : Byte) : argByte1 (x ++ b0 ++ b1) = b1 :=
  BitVec.extractLsb'_append_eq_right

/-- A word of format A-PAIR decodes to the command its code makes of the two bytes. -/
theorem decode_append_pair {op : BitVec 8} (mk : Byte → Byte → Instr)
    (hop : ∀ arg, decodeOp op arg = .ok (mk (argByte0 arg) (argByte1 arg))) (x : BitVec 16) (b0 b1 : Byte) :
    decode (op ++ (x ++ b0 ++ b1)) = .ok (mk b0 b1) := by
  rw [decode_append, hop, argByte0_append, argByte1_append]

theorem argPresent_append (x : BitVec 15) (pin : Bool) (n : BitVec 16) :
    argPresent (x ++ BitVec.ofBool pin ++ n) = pin := by
  have h : (x ++ BitVec.ofBool pin ++ n).getLsbD 16 = (x ++ BitVec.ofBool pin).getLsbD 0 := BitVec.getLsbD_append
  rw [argPresent, h, BitVec.getLsbD_append]
  cases pin <;> rfl

theorem argCount_append (x : BitVec 15) (pin : Bool) (n : BitVec 16) :
    argCount (x ++ BitVec.ofBool pin ++ n) = n.toInt :=
  congrArg BitVec.toInt BitVec.extractLsb'_append_eq_right

/-! ### The commands -/

/-- A pure command makes its response, and only that differs. -/
theorem exec_pure_frame {i : Instr} {r : Rsp} (h : shapeOf i = .pure r) (s : State) :
    exec i s = .next (respond r s) ∧ OnlyResponse s (respond r s) :=
  ⟨by rw [exec_eq_runShape, h]; rfl, rfl⟩

/-- A count in the range of its field is the integer of its pattern. -/
theorem toInt_ofInt_count {n : Int} (h : isCount n = true) : (BitVec.ofInt 16 n).toInt = n := by
  obtain ⟨hlo, hhi⟩ := (isCount_iff n).1 h
  exact BitVec.toInt_ofInt_eq_self (by decide) (by omega) (by omega)

/-- The response of a converted count (rules R42, R65, R67): the conversion fits the 20 bits it is made in. -/
theorem response_dFah {n : Int} (h : isCount n = true) (pin : Bool) (s : State) :
    if pin then Response (respond (dFah pin n) s) 0 1 0 (twosOf 32 (9 * n + 2560))
    else Response (respond (dFah pin n) s) 0 0 0 0 := by
  cases pin with
  | false => exact response_respond _ _
  | true =>
    have hn := toNat_fahrenheit (BitVec.ofInt 16 n)
    rw [toInt_ofInt_count h] at hn
    rw [if_pos rfl, ← hn]
    exact response_respond _ _

/-- Settles O6: the bytes are cut from the word whatever its ignored half holds, and the response is that of their pair's count. -/
theorem decCommandsRespond : Obligations.DecCommandsRespond := by
  intro b0 b1 x s
  obtain ⟨hn, hnf⟩ := exec_pure_frame (i := .decN b0 b1) rfl s
  obtain ⟨he, hef⟩ := exec_pure_frame (i := .decE b0 b1) rfl s
  rw [← toNat_pairOf]
  exact ⟨⟨decode_append_pair .decN (fun _ => rfl) x b0 b1, _, hn, hnf, countResponse_respond _ false s⟩,
    decode_append_pair .decE (fun _ => rfl) x b0 b1, _, he, hef, countResponse_respond _ true s⟩

/-- Settles O7: present-in and the count are cut from the word whatever its ignored bits hold, and the response is the conversion. -/
theorem c2fCommandResponds : Obligations.C2fCommandResponds := by
  intro pin n x s h
  obtain ⟨hx, hf⟩ := exec_pure_frame (i := .c2f pin n) rfl s
  refine ⟨?_, _, hx, hf, response_dFah h pin s⟩
  have hop : ∀ arg, decodeOp 0x04#8 arg = .ok (.c2f (argPresent arg) (argCount arg)) := fun _ => rfl
  rw [decode_append, hop, argPresent_append, argCount_append, toInt_ofInt_count h]

/-- Settles O8: the test for the sentinel comes before the mode is looked at. -/
theorem sentinelAloneIsAbsent : Obligations.SentinelAloneIsAbsent := by
  intro p em
  rw [← isSentinel_iff, decodeTemp]
  split
  next h => exact iff_of_true rfl h
  next h => exact iff_of_false (Option.some_ne_none _) h

end Sys2Proof.Machine
end

section
/-! PROOF. The temperature encoder: ENC.N and ENC.E (rules R70 to R75), each a pure command, and the quantiser they share. -/

namespace Sys2Proof.Machine

/-! ### The quantiser (rules R70, R71) -/

theorem quant_of_nonneg {c : Int} (h : 0 ≤ c) : quant c = c / 4096 := if_pos h

theorem quant_of_neg {c : Int} (h : c < 0) : quant c = -((-c) / 4096) := if_neg (by omega)

/-- Rounding toward zero as one shift: a negative input is first raised by one unit less than a step. -/
theorem quant_eq_floor (c : Int) : quant c = (c + if c < 0 then 4095 else 0) / 4096 := by
  split
  next h => rw [quant_of_neg h]; omega
  next h => rw [quant_of_nonneg (by omega), add_zero]

theorem quant_mono {a b : Int} (h : a ≤ b) : quant a ≤ quant b := by
  rw [quant, quant, trunc0_eq_tdiv, trunc0_eq_tdiv]
  exact Int.tdiv_le_tdiv (by decide) h

theorem clampCelsius_bounds (c : Int) : -3604480 ≤ clampCelsius c ∧ clampCelsius c ≤ 9830400 := by
  unfold clampCelsius clampInt
  split
  · omega
  · split <;> omega

/-- The clamp's two ends quantise to -880 and 2400, and the quantiser keeps the order. -/
theorem quant_clamp_bounds (c : Int) : -880 ≤ quant (clampCelsius c) ∧ quant (clampCelsius c) ≤ 2400 := by
  obtain ⟨hlo, hhi⟩ := clampCelsius_bounds c
  exact ⟨quant_mono hlo, quant_mono hhi⟩

/-- Settles O12: each sign has its own quotient, and the error is the remainder of that quotient. -/
theorem quantTruncatesTowardZero : Obligations.QuantTruncatesTowardZero := by
  intro c
  refine ⟨fun h => ?_, fun h => ?_, quant_eq_floor c, quant_clamp_bounds c⟩
  · have hq := quant_of_nonneg h
    exact ⟨hq, by omega, by omega⟩
  · have hq := quant_of_neg h
    exact ⟨hq, by omega, by omega⟩

/-! ### The commands -/

/-- A word of format A-CEL decodes to the command its code makes of the CelsiusIn. -/
theorem decode_append_celsius {op : BitVec 8} (mk : Int → Instr) (hop : ∀ arg, decodeOp op arg = .ok (mk (argCelsius arg)))
    {c : Int} (h : isCelsiusIn c = true) : decode (op ++ BitVec.ofInt 32 c) = .ok (mk c) := by
  rw [decode_append, hop, ← putCelsius, argCelsius_putCelsius c h]

/-- The response of a pair (rule R42, format D-PAIR). -/
theorem response_dPair (p : Pair) (s : State) : Response (respond (dPair p) s) 0 1 0 p.toNat := by
  have h : (p.setWidth 32).toNat = p.toNat := BitVec.toNat_setWidth_of_le (by decide)
  rw [← h]
  exact response_respond _ _

/-- The response of an encoded CelsiusIn (rules R73 to R75). -/
theorem response_encodeTemp (c : Int) (em : Bool) (s : State) :
    Response (respond (dPair (encodeTemp c em)) s) 0 1 0 (pairNat (rawOf c) em) :=
  toNat_encodeTemp c em ▸ response_dPair _ s

/-- Settles O11: the word holds the whole CelsiusIn, and the response is its pair in the command's mode. -/
theorem encCommandsRespond : Obligations.EncCommandsRespond := by
  intro c s h
  obtain ⟨hn, hnf⟩ := exec_pure_frame (i := .encN c) rfl s
  obtain ⟨he, hef⟩ := exec_pure_frame (i := .encE c) rfl s
  exact ⟨⟨decode_append_celsius .encN (fun _ => rfl) h, _, hn, hnf, response_encodeTemp c false s⟩,
    decode_append_celsius .encE (fun _ => rfl) h, _, he, hef, response_encodeTemp c true s⟩

end Sys2Proof.Machine
end

section
/-! PROOF. The configuration fields of an image: FGET, FSET and FTRIG.OS (rules R80 to R97), each a pure command. -/

namespace Sys2Proof.Machine

/-! ### The words: an image below, and above it the value or the ignored bits (rule R42) -/

theorem argImage_append (x : BitVec 16) (img : Pair) : argImage (x ++ img) = img := argImage_putImageValue img x

theorem argImageValue_append (v : BitVec 16) (img : Pair) : argImageValue (v ++ img) = v :=
  argImageValue_putImageValue img v

/-- A word of format A-IMG decodes to the command its code makes of the image. -/
theorem decode_append_image {op : BitVec 8} (mk : Pair → Instr) (hop : ∀ arg, decodeOp op arg = .ok (mk (argImage arg)))
    (x : BitVec 16) (img : Pair) : decode (op ++ (x ++ img)) = .ok (mk img) := by
  rw [decode_append, hop, argImage_append]

/-- A word of format A-IMGV decodes to the command its code makes of the image and the value. -/
theorem decode_append_imageValue {op : BitVec 8} (mk : Pair → BitVec 16 → Instr)
    (hop : ∀ arg, decodeOp op arg = .ok (mk (argImage arg) (argImageValue arg))) (v : BitVec 16) (img : Pair) :
    decode (op ++ (v ++ img)) = .ok (mk img v) := by
  rw [decode_append, hop, argImage_append, argImageValue_append]

/-! ### The responses (rule R42) -/

/-- The response of a field got from an image (format D-FLD). -/
theorem response_fieldGet (img : Pair) (f : CfgField) (s : State) :
    Response (respond (dFld (fieldGet img f)) s) 0 1 0 (bitsGet (fieldLo f) (fieldWidth f) img.toNat) := by
  have h : ((fieldGet img f).setWidth 32).toNat = (fieldGet img f).toNat := BitVec.toNat_setWidth_of_le (by decide)
  rw [← toNat_fieldGet, ← h]
  exact response_respond _ _

/-- The response of an image with a field set (format D-IMG, laid out as D-PAIR). -/
theorem response_fieldSet (img : Pair) (f : CfgField) (v : BitVec 32) (s : State) :
    Response (respond (dImg (fieldSet img f v)) s) 0 1 0 (bitsSet (fieldLo f) (fieldWidth f) img.toNat v.toNat) :=
  toNat_fieldSet img f v ▸ response_dPair _ s

/-! ### The commands of the two lists -/

/-- The code of a getter decodes to it, and its result is the field the list gives it. -/
theorem imageGetter_row {g : BitVec 8 × (Pair → Instr) × CfgField} (hg : g ∈ imageGetters) :
    (∀ arg, decodeOp g.1 arg = .ok (g.2.1 (argImage arg))) ∧
    ∀ img, shapeOf (g.2.1 img) = .pure (dFld (fieldGet img g.2.2)) := by
  simp only [imageGetters, List.mem_cons, List.not_mem_nil, or_false] at hg
  rcases hg with rfl | rfl | rfl | rfl | rfl | rfl | rfl | rfl <;> exact ⟨fun _ => rfl, fun _ => rfl⟩

/-- The code of a setter decodes to it, and its result is the image with the field the list gives it set. -/
theorem imageSetter_row {g : BitVec 8 × (Pair → BitVec 16 → Instr) × CfgField} (hg : g ∈ imageSetters) :
    (∀ arg, decodeOp g.1 arg = .ok (g.2.1 (argImage arg) (argImageValue arg))) ∧
    ∀ img v, shapeOf (g.2.1 img v) = .pure (dImg (fieldSet img g.2.2 (v.setWidth 32))) := by
  simp only [imageSetters, List.mem_cons, List.not_mem_nil, or_false] at hg
  rcases hg with rfl | rfl | rfl | rfl | rfl | rfl <;> exact ⟨fun _ => rfl, fun _ _ => rfl⟩

/-- Settles O16: the image is cut from the word whatever its ignored half holds, and the response is the field's bits. -/
theorem fgetCommandsRespond : Obligations.FgetCommandsRespond := by
  intro g hg img x s
  obtain ⟨hop, hshape⟩ := imageGetter_row hg
  obtain ⟨hx, hf⟩ := exec_pure_frame (hshape img) s
  exact ⟨decode_append_image g.2.1 hop x img, _, hx, hf, response_fieldGet img g.2.2 s⟩

/-- Settles O17: image and value are cut from the word, and widening the value to the field setter's 32 bits keeps it; FTRIG.OS sets its
bit to the constant 1. -/
theorem fsetCommandsRespond : Obligations.FsetCommandsRespond := by
  refine ⟨fun g hg img v s => ?_, fun img x s => ?_⟩
  · obtain ⟨hop, hshape⟩ := imageSetter_row hg
    obtain ⟨hx, hf⟩ := exec_pure_frame (hshape img v) s
    have hv : (v.setWidth 32).toNat = v.toNat := BitVec.toNat_setWidth_of_le (by decide)
    exact ⟨decode_append_imageValue g.2.1 hop v img, _, hx, hf, hv ▸ response_fieldSet img g.2.2 (v.setWidth 32) s⟩
  · obtain ⟨hx, hf⟩ := exec_pure_frame (i := .ftrigOs img) rfl s
    exact ⟨decode_append_image .ftrigOs (fun _ => rfl) x img, _, hx, hf, response_fieldSet img .os 1#32 s⟩

end Sys2Proof.Machine
end

section
/-! PROOF. The sequenced register commands: RD, WR, CGET, CSET and OS.TRIG (rules R111 to R132), complete or ended by a failure. -/

namespace Sys2Proof.Machine

/-! ### Failures (rules R110, R152) -/

/-- The TFAIL response as a number: 1 in bit 8 for a write, over the register's address (rule R152). -/
theorem response_raiseTfail (e : Byte) (r : SensorReg) (w : Bool) (s : State) :
    Response (raiseTfail e r w s) 1 0 e.toNat ((if w then 256 else 0) + (regAddr r).toNat) := by
  have hd : (rspTfail e (regAddr r) w).data.toNat = (if w then 256 else 0) + (regAddr r).toNat := by
    cases r <;> cases w <;> rfl
  rw [← hd]
  exact response_respond _ _

/-- A sequenced command whose first read fails ends TFAIL there. -/
theorem tfailFirst {i : Instr} (hq : Sequenced i) (s : State) : TfailFirst i s := by
  intro e l h0
  refine ⟨_, exec_eq_runShape i s, ?_⟩
  rw [runShape_first i hq fun k => memRead_fail .configuration s k e l h0]
  refine ⟨response_raiseTfail e .configuration false _, ?_⟩
  simp [raiseTfail, respond, storeReq, memBefore]

/-- A command whose second request fails ends with what that request leaves behind. -/
theorem runShape_second_fail {s : State} (i : Instr) (q : Req) (e : Byte) (l : Bool)
    (h : requestAt i 1#2 (seenNow s .configuration) = some q) (h0 : (s.turnAt 0).reply = .ok)
    (h1 : (s.turnAt 1).reply = .fail e l) : runShape (shapeOf i) s =
      raiseTfail e (reqReg q) (reqIsWrite q) (failReq q l (beginTurn (afterCfgRead s))) := by
  have h1' : ((afterCfgRead s).turnAt 0).reply = .fail e l := by simpa using h1
  rcases runShape_second i q h h0 with ⟨r, k, rfl, hk⟩ | ⟨r, p, k, rfl, hk⟩
  · exact hk.trans (memRead_fail r _ k e l h1')
  · exact hk.trans (memWrite_fail r p _ k e l h1')

/-- A command whose second request fails ends TFAIL there; one without a second request has nothing to show. -/
theorem tfailSecond (i : Instr) (s : State) : TfailSecond i s := by
  intro q e l hq h0 h1
  refine ⟨_, exec_eq_runShape i s, ?_⟩
  rw [runShape_second_fail i q e l hq h0 h1]
  refine ⟨response_raiseTfail e (reqReg q) (reqIsWrite q) _, ?_⟩
  simp [raiseTfail, respond, afterCfgRead, memAtSecond, memBefore]

/-! ### Completion, shape by shape -/

/-- A successful read of the Configuration register and a response. -/
theorem oneReadFrame_respond (s : State) (rsp : Rsp) : OneReadFrame s (respond rsp (afterCfgRead s)) := by
  unfold OneReadFrame
  simp [afterCfgRead, respond, storeReq, seenNow, memBefore]

section
variable {i : Instr} {r : SensorReg} {c : Int} {f : CfgField} {v : BitVec 32} (s : State)

/-- A count read responds with its register's pair, decoded in the mode just read. -/
theorem readCount_completes (h : shapeOf i = .readCount r) (ha : Answered 2 s) :
    ∃ t, exec i s = .next t ∧ TwoReadFrame s t r ∧
      CountResponse t (seenSecond s r).toNat (bitsGet 4 1 (seenNow s .configuration).toNat == 1) := by
  refine ⟨_, exec_eq_runShape i s, ?_⟩
  rw [h, runShape, readAndDecode_ok r s ha, emOf_eq]
  exact ⟨twoReadFrame_respond r (readCount_reg i r h) s _, countResponse_respond _ _ _⟩

/-- A field getter responds with the field of the image just read. -/
theorem getField_completes (h : shapeOf i = .getField f) (ha : Answered 1 s) :
    ∃ t, exec i s = .next t ∧ OneReadFrame s t ∧
      Response t 0 1 0 (bitsGet (fieldLo f) (fieldWidth f) (seenNow s .configuration).toNat) := by
  refine ⟨_, exec_eq_runShape i s, ?_⟩
  rw [h, runShape, readField_ok f s ha]
  exact ⟨oneReadFrame_respond s _, response_fieldGet _ f _⟩

/-- A threshold write stores the value encoded in the mode just read. -/
theorem writeCount_completes (h : shapeOf i = .writeCount r c) (hw : Memory.wf s.mem = true) (ha : Answered 2 s) :
    ∃ t, exec i s = .next t ∧ Response t 0 1 0 0 ∧
      ReadWriteFrame s t r (pairNat (rawOf c) (bitsGet 4 1 (seenNow s .configuration).toNat == 1)) := by
  refine ⟨_, exec_eq_runShape i s, ?_⟩
  rw [h, runShape, encodeAndWrite_ok r c s ha, ← emOf_eq, ← toNat_encodeTemp]
  exact ⟨response_respond dZero _, readWriteFrame_respond r _ s dZero hw⟩

/-- A field setter stores the image just read with the field replaced. -/
theorem setField_completes (h : shapeOf i = .setField f v) (hw : Memory.wf s.mem = true) (ha : Answered 2 s) :
    ∃ t, exec i s = .next t ∧ Response t 0 1 0 0 ∧ ReadWriteFrame s t .configuration
      (bitsSet (fieldLo f) (fieldWidth f) (seenNow s .configuration).toNat v.toNat) := by
  refine ⟨_, exec_eq_runShape i s, ?_⟩
  rw [h, runShape, modifyField_ok f v s ha, ← toNat_fieldSet]
  exact ⟨response_respond dZero _, readWriteFrame_respond .configuration _ s dZero hw⟩

end

/-! ### The commands of the four lists (rule R43) -/

/-- The code of a count read decodes to it whatever the argument, and it reads the register the list gives it. -/
theorem countReader_row {g : BitVec 8 × Instr × SensorReg} (hg : g ∈ countReaders) :
    (∀ arg, decodeOp g.1 arg = .ok g.2.1) ∧ Sequenced g.2.1 ∧ shapeOf g.2.1 = .readCount g.2.2 := by
  simp only [countReaders, List.mem_cons, List.not_mem_nil, or_false] at hg
  rcases hg with rfl | rfl | rfl <;> exact ⟨fun _ => rfl, Nat.le_of_ble_eq_true rfl, rfl⟩

/-- The code of a threshold write decodes to it, and it writes the register the list gives it. -/
theorem thresholdWriter_row {g : BitVec 8 × (Int → Instr) × SensorReg} (hg : g ∈ thresholdWriters) :
    (∀ arg, decodeOp g.1 arg = .ok (g.2.1 (argCelsius arg))) ∧
    ∀ c, Sequenced (g.2.1 c) ∧ shapeOf (g.2.1 c) = .writeCount g.2.2 c := by
  simp only [thresholdWriters, List.mem_cons, List.not_mem_nil, or_false] at hg
  rcases hg with rfl | rfl <;> exact ⟨fun _ => rfl, fun _ => ⟨Nat.le_of_ble_eq_true rfl, rfl⟩⟩

/-- The code of a getter decodes to it whatever the argument, and it gets the field the list gives it. -/
theorem sensorGetter_row {g : BitVec 8 × Instr × CfgField} (hg : g ∈ sensorGetters) :
    (∀ arg, decodeOp g.1 arg = .ok g.2.1) ∧ Sequenced g.2.1 ∧ shapeOf g.2.1 = .getField g.2.2 := by
  simp only [sensorGetters, List.mem_cons, List.not_mem_nil, or_false] at hg
  rcases hg with rfl | rfl | rfl | rfl | rfl | rfl | rfl | rfl <;>
    exact ⟨fun _ => rfl, Nat.le_of_ble_eq_true rfl, rfl⟩

/-- The code of a setter decodes to it with all of the argument as the value, and it sets the field the list gives it. -/
theorem sensorSetter_row {g : BitVec 8 × (BitVec 32 → Instr) × CfgField} (hg : g ∈ sensorSetters) :
    ∀ v, decodeOp g.1 v = .ok (g.2.1 v) ∧ Sequenced (g.2.1 v) ∧ shapeOf (g.2.1 v) = .setField g.2.2 v := by
  simp only [sensorSetters, List.mem_cons, List.not_mem_nil, or_false] at hg
  rcases hg with rfl | rfl | rfl | rfl | rfl | rfl <;> exact fun _ => ⟨rfl, Nat.le_of_ble_eq_true rfl, rfl⟩

/-- Settles O19: the two reads succeed in order, or the first failure ends the command. -/
theorem rdCommandsComplete : Obligations.RdCommandsComplete := by
  intro g hg x s
  obtain ⟨hop, hq, hshape⟩ := countReader_row hg
  exact ⟨by rw [decode_append, hop], readCount_completes s hshape, tfailFirst hq s, tfailSecond g.2.1 s⟩

/-- Settles O20: the read gives the mode in which the value is encoded, and the register is written wholesale. -/
theorem wrCommandsComplete : Obligations.WrCommandsComplete := by
  intro g hg c s hc hw
  obtain ⟨hop, hrow⟩ := thresholdWriter_row hg
  obtain ⟨hq, hshape⟩ := hrow c
  exact ⟨decode_append_celsius g.2.1 hop hc, writeCount_completes s hshape hw, tfailFirst hq s, tfailSecond (g.2.1 c) s⟩

/-- Settles O21: the one read succeeds and its field is the result, or its failure ends the command. -/
theorem cgetCommandsComplete : Obligations.CgetCommandsComplete := by
  intro g hg x s
  obtain ⟨hop, hq, hshape⟩ := sensorGetter_row hg
  exact ⟨by rw [decode_append, hop], getField_completes s hshape, tfailFirst hq s⟩

/-- Settles O22: the image read is written back with the field replaced, or the first failure ends the command. -/
theorem csetCommandsComplete : Obligations.CsetCommandsComplete := by
  intro g hg v s hw
  obtain ⟨hop, hq, hshape⟩ := sensorSetter_row hg v
  exact ⟨by rw [decode_append, hop], setField_completes s hshape hw, tfailFirst hq s, tfailSecond (g.2.1 v) s⟩

/-- Settles O23: OS.TRIG sets its bit to the constant 1 as the setters set their fields, whatever was read. -/
theorem osTrigCompletes : Obligations.OsTrigCompletes := by
  intro x s hw
  have hshape : shapeOf .osTrig = .setField .os 1#32 := rfl
  have hq : Sequenced .osTrig := Nat.le_of_ble_eq_true rfl
  have hdone := setField_completes s hshape hw
  exact ⟨by rw [decode_append]; rfl, hdone, tfailFirst hq s, tfailSecond .osTrig s⟩

end Sys2Proof.Machine
end

section
/-! PROOF. The ends of a command (rules R150 to R157): TFAIL and ILLEGAL, the taken response, and that no step is a fault. -/

namespace Sys2Proof.Machine

/-- Settles O24: the first two transactions are all a sequenced command makes, and each has its lemma. -/
theorem transportFailureEndsCommand : Obligations.TransportFailureEndsCommand :=
  fun i s => ⟨fun hq => tfailFirst hq s, tfailSecond i s⟩

/-! ### The response word as the host sees it (rule R41) -/

/-- The four fields as numbers determine the pending response word. -/
theorem rsp_of_response {s : State} (r : Rsp)
    (h : Response s (statusCode r.status).toNat r.present.toNat r.err.toNat r.data.toNat) : s.rsp = rspWord r :=
  BitVec.eq_of_toNat_eq (h.2.trans (toNat_rspWord r).symm)

/-- Settles O37: the pending word is that of the one response it stands for, so the step in which it is taken is known. -/
theorem takenResponseReleasesBlock : Obligations.TakenResponseReleasesBlock := by
  intro s st present err data hrst hreq hready hrsp
  have hword : s.rsp = rspWord ⟨st, present, err, data⟩ := rsp_of_response ⟨st, present, err, data⟩ hrsp
  exact ⟨_, step_of_response hrst hrsp.1 hready hword, ⟨rfl, rfl, hreq⟩, rfl⟩

/-! ### No step from a sound state is a fault or a refusal (rules R154, R157) -/

/-- A legal response word has a status the host knows. -/
theorem readRsp_of_rspLegal {w : RspWord} (h : rspLegal w = true) : ∃ r, readRsp w = some r := by
  cases hr : readRsp w with
  | some r => exact ⟨r, rfl⟩
  | none => simp [rspLegal, hr] at h

/-- Every word runs, as a command or to ILLEGAL (rule R45). -/
theorem exists_runWord (w : CmdWord) (s : State) : ∃ t, runWord w s = .next t := by
  cases hd : decode w with
  | ok i => exact ⟨_, runWord_of_decode w i s hd⟩
  | error x => exact ⟨_, runWord_of_reserved w x s hd⟩

/-- Settles O47: only the taking of a response could fault, and the pending one of a sound state is legal. -/
theorem soundStateNeverStops : Obligations.SoundStateNeverStops := by
  intro s h
  cases hrst : rstHighAt s 0 with
  | true => exact ⟨_, step_of_rst s hrst⟩
  | false =>
    cases hp : s.rspPending with
    | true =>
      cases hready : s.rspReady with
      | false => exact ⟨_, step_of_untaken s hrst hp hready⟩
      | true =>
        obtain ⟨r, hr⟩ := readRsp_of_rspLegal (h.rspLegal hp)
        exact ⟨_, (step_of_ready s hrst hp hready).trans ((takeRsp_eq_next _ _).2 ⟨r, hr, rfl⟩)⟩
    | false =>
      cases hb : s.busy with
      | true => exact ⟨_, step_of_busy s hrst hp hb⟩
      | false =>
        cases hc : s.cmds with
        | nil => exact ⟨_, step_of_nothing_presented s hrst hp hb hc⟩
        | cons w ws =>
          rw [step_of_presented s w ws hrst hp hb hc]
          exact exists_runWord w _

/-! ### Reserved codes (rules R44, R151) -/

/-- A word whose code is in no row of the map is rejected. -/
theorem decode_of_reserved {w : CmdWord} (h : ∀ r ∈ opTable, r.op ≠ opOf w) : ∃ x, decode w = .error x := by
  cases hd : decode w with
  | error x => exact ⟨x, rfl⟩
  | ok i =>
    obtain ⟨r, hr, hop⟩ := (opAloneDecides.1 w).1 ⟨i, hd⟩
    exact absurd hop (h r hr)

/-- Settles O35: the word is accepted as any other, and the response is all that follows. -/
theorem reservedCodeIsIllegal : Obligations.ReservedCodeIsIllegal := by
  rintro s w ws ⟨hb, hp, -⟩ hrst hc hres
  obtain ⟨x, hx⟩ := decode_of_reserved hres
  refine ⟨raiseIllegal (acceptWord w { passStep s with cmds := ws }), ?_, response_respond rspIllegal _, rfl⟩
  rw [step_of_presented s w ws hrst hp hb hc, runWord_of_reserved w x _ hx]

end Sys2Proof.Machine
end

section
/-! PROOF. Reset (rules R170 to R172): in a step, at a clock edge, and inside a command's first or second transaction. -/

namespace Sys2Proof.Machine

/-! ### A reset block -/

/-- A reset block is idle, whatever it was doing (rules R17, R170). -/
theorem idle_blockReset (s : State) : Idle (blockReset s) := ⟨rfl, rfl, rfl⟩

/-- An idle block accepts a command, and presents neither a response nor a request (rules R18, R19). -/
theorem portsOut_of_idle {s : State} (h : Idle s) :
    (portsOut s).cmdReady = true ∧ (portsOut s).rspValid = false ∧ (portsOut s).tReqValid = false ∧
      (portsOut s).tRspReady = false := by
  obtain ⟨hb, hp, ht⟩ := h
  have hreq : presentsReq s = false := by simp [presentsReq, hb]
  exact ⟨by simp [portsOut, hb], hp, hreq, ht⟩

/-- Settles O42: with `rst` high the step is the block's reset, which writes hold registers only. -/
theorem resetStep : Obligations.ResetStep :=
  fun s hrst => ⟨blockReset (passStep s), step_of_rst s hrst, rfl, rfl, rfl, rfl, rfl, rfl, rfl, rfl, rfl, rfl, rfl, rfl⟩

/-- Settles O49: the edge leaves a reset block, which is idle at its ports. -/
theorem clockedReset : Obligations.ClockedReset := by
  intro x s hrst
  rw [clockEdge_of_rst x s hrst]
  obtain ⟨hcmd, hrsp, hreq, hans⟩ := portsOut_of_idle (idle_blockReset s)
  exact ⟨hcmd, hrsp, hreq, hans, rfl, rfl⟩

/-! ### A transaction of which nothing more is heard (rule R171) -/

@[simp] theorem hangReq_taken (q : Req) (c : Cut) (s : State) : (hangReq q c s).taken = s.taken := by
  cases c <;> rfl

@[simp] theorem hangReq_cmds (q : Req) (c : Cut) (s : State) : (hangReq q c s).cmds = s.cmds := by
  cases c <;> rfl

@[simp] theorem hangReq_rspReady (q : Req) (c : Cut) (s : State) : (hangReq q c s).rspReady = s.rspReady := by
  cases c <;> rfl

/-- Only a request that was taken and has landed takes effect (U3). -/
theorem hangReq_mem (q : Req) (c : Cut) (s : State) :
    (hangReq q c s).mem = if c = .taken true then storeReq q s.devAddr s.mem else s.mem := by
  cases c with
  | withdrawn => rfl
  | taken landed => cases landed <;> rfl

/-- Only a request that was taken is on the transport's record. -/
theorem hangReq_bus (q : Req) (c : Cut) (s : State) :
    (hangReq q c s).bus = s.bus ++ if c = .withdrawn then [] else [⟨s.devAddr, q⟩] := by
  cases c with
  | withdrawn => exact (List.append_nil s.bus).symm
  | taken landed => rfl

/-! ### A command that reset cuts off -/

/-- A sequenced command whose first read is cut off ends reset, with what that read leaves behind. -/
theorem runShape_first_reset {i : Instr} {s : State} {c : Cut} (hi : Sequenced i) (h0 : (s.turnAt 0).reply = .reset c) :
    runShape (shapeOf i) s = blockReset (hangReq (.read .configuration) c (beginTurn s)) :=
  runShape_first i hi fun k => memRead_reset .configuration s k c h0

/-- A command whose second request is cut off ends reset, with what that request leaves behind. -/
theorem runShape_second_reset {i : Instr} {s : State} {q : Req} {c : Cut}
    (hq : requestAt i 1#2 (seenNow s .configuration) = some q) (h0 : (s.turnAt 0).reply = .ok)
    (h1 : (s.turnAt 1).reply = .reset c) :
    runShape (shapeOf i) s = blockReset (hangReq q c (beginTurn (afterCfgRead s))) := by
  have h1' : ((afterCfgRead s).turnAt 0).reply = .reset c := by simpa using h1
  rcases runShape_second i q hq h0 with ⟨r, k, rfl, hk⟩ | ⟨r, p, k, rfl, hk⟩
  · exact hk.trans (memRead_reset r _ k c h1')
  · exact hk.trans (memWrite_reset r p _ k c h1')

/-- Settles O44: the command ends in the reset of the transaction that was cut off; a first read has no effect to land. -/
theorem resetCutsCommandOff : Obligations.ResetCutsCommandOff := by
  intro i s c
  refine ⟨fun hi h0 => ⟨_, exec_eq_runShape i s, ?_⟩, fun q hq h0 h1 => ⟨_, exec_eq_runShape i s, ?_⟩⟩
  · rw [runShape_first_reset hi h0]
    simp [CutOff, hangReq_mem, hangReq_bus, storeReq, memBefore]
  · rw [runShape_second_reset hq h0 h1]
    simp [CutOff, hangReq_mem, hangReq_bus, afterCfgRead, storeReq, memAtSecond, memBefore]

end Sys2Proof.Machine
end

section
/-! PROOF. The hazard of two masters (rules R30, R174): a read-modify-write overwrites what came between its read and its write. -/

namespace Sys2Proof.Machine

/-- The register a command has written holds the pair written. -/
theorem ReadWriteFrame.readPair_eq {s t : State} {r : SensorReg} {n : Nat} (h : ReadWriteFrame s t r n) :
    (readPair t.mem s.devAddr r).toNat = n := by
  obtain ⟨-, hbyte⟩ := h
  have h0 := hbyte (cellKey s.devAddr r)
  have h1 := hbyte (cellKey s.devAddr r + 1)
  simp only [if_true, Nat.succ_ne_self, if_false] at h0 h1
  rw [readPair, toNat_pairOf, h0, h1, Nat.div_add_mod']

/-- A field setter whose transactions succeed leaves the image of its own first read with the field replaced, whatever the outside did
to the register before the second. -/
theorem setField_overwrites {i : Instr} {f : CfgField} {v : BitVec 32} {s : State} (h : shapeOf i = .setField f v)
    (hw : Memory.wf s.mem = true) (ha : Answered 2 s) :
    ∃ t, exec i s = .next t ∧ (readPair t.mem s.devAddr .configuration).toNat =
      bitsSet (fieldLo f) (fieldWidth f) (seenNow s .configuration).toNat v.toNat := by
  obtain ⟨t, ht, -, hframe⟩ := setField_completes s h hw ha
  exact ⟨t, ht, hframe.readPair_eq⟩

/-- Settles O29: the other master's write changes no reply, so the setter completes, and its write covers the whole register. -/
theorem lostUpdate : Obligations.LostUpdate := by
  intro s p hw h0 h1
  have ha : Answered 2 s := by
    intro j hj
    interval_cases j
    · exact h0
    · rw [h1]
  refine ⟨fun g hg v => ?_, setField_overwrites (i := .osTrig) rfl hw ha⟩
  obtain ⟨-, -, hshape⟩ := sensorSetter_row hg v
  exact setField_overwrites hshape hw ha

end Sys2Proof.Machine
end

section
/-! PROOF. Ranges and round trips of the temperature codec (rules R60 to R66, R70 to R78): which counts the decoder makes, which pairs
the encoder makes, and each after the other. -/

namespace Sys2Proof.Machine

/-! ### A pair and its count, as numbers (rules R26, R61, R72) -/

/-- The counts of a mode lie from minus this number to below it. -/
def countBound (em : Bool) : Int := if em then 4096 else 2048

@[simp] theorem countBound_true : countBound true = 4096 := rfl
@[simp] theorem countBound_false : countBound false = 2048 := rfl

theorem countOf_bounds {p : Nat} (h : p < 65536) (em : Bool) :
    -countBound em ≤ countOf p em ∧ countOf p em < countBound em := by
  cases em <;> simp only [countBound, countOf, signedOf, Bool.false_eq_true, if_true, if_false] <;> split <;> omega

/-- A packed pair's count is the value packed where the mode can hold it (rules R77, R78). -/
theorem countOf_pairNat {n : Int} {em : Bool} (hlo : -countBound em ≤ n) (hhi : n < countBound em) :
    countOf (pairNat n em) em = n := by
  cases em <;> simp only [countBound, countOf, pairNat, signedOf, twosOf, Bool.false_eq_true, if_true, if_false] at * <;>
    split <;> omega

/-- Normal mode packs 12 bits, so values 4096 apart have one pair. -/
theorem pairNat_sub_normal (n : Int) : pairNat (n - 4096) false = pairNat n false := by
  simp only [pairNat, twosOf, Bool.false_eq_true, if_false]
  omega

/-- A packed pair has 0 in its ignored bits (rule R76). -/
theorem pairNat_mod (n : Int) (em : Bool) : pairNat n em % (if em then 8 else 16) = 0 := by
  cases em <;> simp only [pairNat, Bool.false_eq_true, if_true, if_false] <;> omega

/-- The sentinel has 1 in its ignored bits, so no packed pair is it (rule R76). -/
theorem pairNat_ne_sentinel (n : Int) (em : Bool) : pairNat n em ≠ 65535 := by
  have h := pairNat_mod n em
  intro hs
  rw [hs] at h
  cases em <;> cases h

/-- The pair of a pair's count is that pair with its ignored bits cleared (rule R78). -/
theorem pairNat_countOf {p : Nat} (h : p < 65536) (em : Bool) :
    pairNat (countOf p em) em = if em then p / 8 * 8 else p / 16 * 16 := by
  cases em <;> simp only [pairNat, countOf, signedOf, twosOf, Bool.false_eq_true, if_true, if_false] <;> split <;> omega

/-! ### The decoder (rules R64, R66) -/

/-- What the decoder answers: absent on the sentinel, else the count of the pair (rules R60, R61). -/
theorem decodeTemp_eq_some_iff (p : Pair) (em : Bool) (k : Count) :
    decodeTemp p em = some k ↔ p.toNat ≠ 65535 ∧ k.toInt = countOf p.toNat em := by
  rcases decodeTemp_cases p em with ⟨hp, hd⟩ | ⟨hp, n, hd, hn⟩
  · simp [hp, hd]
  · rw [hd, Option.some_inj, ← hn, BitVec.toInt_inj]
    exact ⟨fun h => ⟨hp, h.symm⟩, fun h => h.2.symm⟩

/-- Packing any value and decoding it gives a count, never absent. -/
theorem exists_decodeTemp_pack (n : Int) (em : Bool) :
    ∃ k, decodeTemp (pack n em) em = some k ∧ k.toInt = countOf (pairNat n em) em := by
  rcases decodeTemp_cases (pack n em) em with ⟨hp, -⟩ | ⟨-, h⟩
  · exact absurd (toNat_pack n em ▸ hp) (pairNat_ne_sentinel n em)
  · rwa [toNat_pack] at h

/-- The counts of a mode are exactly the integers of its range: each is the count of its own packed pair. -/
theorem exists_decodeTemp_iff (n : Int) (em : Bool) :
    (∃ (p : Pair) (k : Count), decodeTemp p em = some k ∧ k.toInt = n) ↔ -countBound em ≤ n ∧ n < countBound em := by
  constructor
  · rintro ⟨p, k, hd, rfl⟩
    rw [((decodeTemp_eq_some_iff p em k).1 hd).2]
    exact countOf_bounds p.isLt em
  · rintro ⟨hlo, hhi⟩
    obtain ⟨k, hd, hk⟩ := exists_decodeTemp_pack n em
    exact ⟨pack n em, k, hd, hk.trans (countOf_pairNat hlo hhi)⟩

/-- Settles O9: a count is a signed field of 12 or 13 bits, and every value of the field is packed by some pair. -/
theorem decodeIsOntoItsRange : Obligations.DecodeIsOntoItsRange :=
  ⟨fun n => (exists_decodeTemp_iff n false).trans (and_congr_right fun _ => Int.lt_add_one_iff (b := 2047)),
    fun n => (exists_decodeTemp_iff n true).trans (and_congr_right fun _ => Int.lt_add_one_iff (b := 4095))⟩

/-- Two pairs of one count, neither the sentinel, decode alike. -/
theorem decodeTemp_congr {p q : Pair} {em : Bool} (hp : p ≠ 0xFFFF#16) (hq : q ≠ 0xFFFF#16)
    (h : countOf p.toNat em = countOf q.toNat em) : decodeTemp p em = decodeTemp q em := by
  rcases decodeTemp_cases p em with ⟨hs, -⟩ | ⟨-, k, hd, hk⟩
  · exact absurd (BitVec.eq_of_toNat_eq hs) hp
  · have hqs : q.toNat ≠ 65535 := fun hs => hq (BitVec.eq_of_toNat_eq hs)
    rw [hd, eq_comm, decodeTemp_eq_some_iff]
    exact ⟨hqs, hk.trans h⟩

/-- Settles O10: the count reads the field of the mode only. -/
theorem lowBitsIgnored : Obligations.LowBitsIgnored :=
  fun _ _ hp hq => ⟨fun h => decodeTemp_congr hp hq (congrArg (signedOf 12) h),
    fun h => decodeTemp_congr hp hq (congrArg (signedOf 13) h)⟩

/-! ### The encoder (rules R76 to R78) -/

theorem rawOf_bounds (c : Int) : -880 ≤ rawOf c ∧ rawOf c ≤ 2400 := quant_clamp_eq c ▸ quant_clamp_bounds c

theorem toNat_byte0_encodeTemp (c : Int) (em : Bool) : (byte0 (encodeTemp c em)).toNat = pairNat (rawOf c) em / 256 := by
  rw [toNat_byte0, toNat_encodeTemp]

/-- Settles O13: the low bits are packed 0, and the high ones hold a value between -880 and 2400. -/
theorem encoderRanges : Obligations.EncoderRanges := by
  intro c em
  obtain ⟨hlo, hhi⟩ := rawOf_bounds c
  refine ⟨fun h => ?_, ?_, ?_, ?_, ?_⟩
  · exact pairNat_ne_sentinel (rawOf c) em (toNat_encodeTemp c em ▸ congrArg BitVec.toNat h)
  · exact toNat_encodeTemp c true ▸ pairNat_mod (rawOf c) true
  · exact toNat_encodeTemp c false ▸ pairNat_mod (rawOf c) false
  · simp only [toNat_byte0_encodeTemp, pairNat, twosOf, Bool.false_eq_true, if_false]
    omega
  · simp only [toNat_byte0_encodeTemp, pairNat, twosOf, if_true]
    omega

/-- The encoder's values lie in the mode's range, all of them in extended mode and those up to 2047 in normal mode. -/
theorem rawOf_in_mode {c : Int} {em : Bool} (h : em = true ∨ rawOf c ≤ 2047) :
    -countBound em ≤ rawOf c ∧ rawOf c < countBound em := by
  obtain ⟨hlo, hhi⟩ := rawOf_bounds c
  cases em with
  | true => rw [countBound_true]; omega
  | false =>
    have hfits := h.resolve_left Bool.false_ne_true
    rw [countBound_false]
    omega

/-- What is encoded decodes to the count of the packed value. -/
theorem exists_decodeTemp_encodeTemp (c : Int) (em : Bool) :
    ∃ k, decodeTemp (encodeTemp c em) em = some k ∧ k.toInt = countOf (pairNat (rawOf c) em) em :=
  quant_clamp_eq c ▸ exists_decodeTemp_pack (quant (clampCelsius c)) em

/-- Settles O14: the packed value comes back where the mode can hold it, and from 2048 on normal mode holds the value 4096 below. -/
theorem encodeThenDecode : Obligations.EncodeThenDecode := by
  intro c em
  rw [quant_clamp_eq]
  obtain ⟨k, hd, hk⟩ := exists_decodeTemp_encodeTemp c em
  refine ⟨fun hfits => ?_, fun h => ?_, hd ▸ Option.some_ne_none k⟩
  · obtain ⟨hlo, hhi⟩ := rawOf_in_mode hfits
    exact ⟨k, hd, hk.trans (countOf_pairNat hlo hhi)⟩
  · obtain ⟨-, hhi⟩ := rawOf_bounds c
    obtain ⟨j, hj, hn⟩ := exists_decodeTemp_encodeTemp c false
    rw [← pairNat_sub_normal, countOf_pairNat (by rw [countBound_false]; omega) (by rw [countBound_false]; omega)] at hn
    exact ⟨j, hj, hn⟩

/-- A whole number of steps is clamped as steps and not truncated. -/
theorem rawOf_steps (n : Int) : rawOf (4096 * n) = max (-880) (min n 2400) := by
  have h : max (-3604480) (min (4096 * n) 9830400) = 4096 * max (-880) (min n 2400) := by omega
  rw [rawOf, h, Int.mul_tdiv_cancel_left _ (by decide)]

theorem encodeTemp_congr {c d : Int} (h : rawOf c = rawOf d) (em : Bool) : encodeTemp c em = encodeTemp d em := by
  rw [encodeTemp, encodeTemp, quant_clamp_eq, quant_clamp_eq, h]

/-- A mask of all but the low `k` bits clears those bits. -/
theorem toNat_and_allOnes_shiftLeft (p : Pair) (k : Nat) : (p &&& BitVec.allOnes 16 <<< k).toNat = p.toNat / 2 ^ k * 2 ^ k := by
  have hlt : p.toNat / 2 ^ k * 2 ^ k < 2 ^ 16 := lt_of_le_of_lt (Nat.div_mul_le_self _ _) p.isLt
  rw [← BitVec.shiftLeft_ushiftRight, BitVec.toNat_shiftLeft, BitVec.toNat_ushiftRight, Nat.shiftLeft_eq,
    Nat.shiftRight_eq_div_pow, Nat.mod_eq_of_lt hlt]

/-- Settles O15: a count in the encoder's range packs to the pair it was read from, and any other is clamped to the range's end. -/
theorem decodeThenEncode : Obligations.DecodeThenEncode := by
  intro p em k hd
  have hk := ((decodeTemp_eq_some_iff p em k).1 hd).2
  refine ⟨fun hlo hhi => BitVec.eq_of_toNat_eq ?_, fun h => encodeTemp_congr ?_ em, fun h => encodeTemp_congr ?_ em⟩
  · have hraw : rawOf (4096 * k.toInt) = countOf p.toNat em := by rw [rawOf_steps]; omega
    rw [toNat_encodeTemp, hraw, pairNat_countOf p.isLt]
    cases em with
    | false => exact (toNat_and_allOnes_shiftLeft p 4).symm
    | true => exact (toNat_and_allOnes_shiftLeft p 3).symm
  · have htop : rawOf 9830400 = 2400 := rfl
    rw [rawOf_steps, htop]
    omega
  · have hbottom : rawOf (-3604480) = -880 := rfl
    rw [rawOf_steps, hbottom]
    omega

end Sys2Proof.Machine
end

section
/-! PROOF. The laws of FIELD_GET and FIELD_SET (rules R80 to R82, R100), from the bits of a number that a field's place covers. -/

namespace Sys2Proof.Machine

/-! ### Places in a number: the bits got and set, one by one -/

theorem testBit_bitsGet (lo width n i : Nat) :
    (bitsGet lo width n).testBit i = (decide (i < width) && n.testBit (i + lo)) := by
  rw [bitsGet, Nat.testBit_mod_two_pow, Nat.testBit_div_two_pow]

/-- A number with a place replaced: what stands above the place, the value in it, and what stands below. -/
theorem bitsSet_eq (lo width n v : Nat) :
    bitsSet lo width n v = 2 ^ lo * (2 ^ width * (n / 2 ^ lo / 2 ^ width) + v % 2 ^ width) + n % 2 ^ lo := by
  have hn := Nat.div_add_mod n (2 ^ lo)
  have hq := Nat.div_add_mod (n / 2 ^ lo) (2 ^ width)
  have hsplit : n = 2 ^ lo * (2 ^ width * (n / 2 ^ lo / 2 ^ width)) + bitsGet lo width n * 2 ^ lo + n % 2 ^ lo := by
    rw [bitsGet, mul_comm _ (2 ^ lo), ← mul_add, hq, hn]
  have hrest : n - bitsGet lo width n * 2 ^ lo = 2 ^ lo * (2 ^ width * (n / 2 ^ lo / 2 ^ width)) + n % 2 ^ lo := by omega
  rw [bitsSet, hrest]
  ring

/-- Inside the place a set number has the value's bits, outside it its own. -/
theorem testBit_bitsSet (lo width n v i : Nat) : (bitsSet lo width n v).testBit i =
    if lo ≤ i ∧ i < lo + width then v.testBit (i - lo) else n.testBit i := by
  rw [bitsSet_eq, Nat.testBit_two_pow_mul_add _ (Nat.mod_lt _ (Nat.two_pow_pos lo)),
    Nat.testBit_two_pow_mul_add _ (Nat.mod_lt _ (Nat.two_pow_pos width))]
  by_cases hlo : i < lo
  · simp [Nat.testBit_mod_two_pow, hlo]
  · by_cases hw : i < lo + width
    · simp [Nat.testBit_mod_two_pow, hlo, hw, show lo ≤ i by omega, show i - lo < width by omega]
    · simp [Nat.testBit_div_two_pow, hlo, hw, show ¬ i - lo < width by omega, show i - lo - width + width + lo = i by omega]

theorem bitsGet_bitsSet_same (lo width n v : Nat) : bitsGet lo width (bitsSet lo width n v) = v % 2 ^ width := by
  apply Nat.eq_of_testBit_eq
  intro i
  rw [testBit_bitsGet, testBit_bitsSet, Nat.testBit_mod_two_pow]
  by_cases h : i < width
  · simp [h, show i + lo < lo + width by omega]
  · simp [h]

theorem bitsSet_bitsSet_same (lo width n u v : Nat) :
    bitsSet lo width (bitsSet lo width n u) v = bitsSet lo width n v := by
  apply Nat.eq_of_testBit_eq
  intro i
  simp only [testBit_bitsSet]
  split <;> rfl

theorem bitsSet_bitsGet_self (lo width n : Nat) : bitsSet lo width n (bitsGet lo width n) = n := by
  apply Nat.eq_of_testBit_eq
  intro i
  rw [testBit_bitsSet, testBit_bitsGet]
  split
  next h => simp [show i - lo < width by omega, show i - lo + lo = i by omega]
  next => rfl

section
variable {lo width lo' width' : Nat} (hapart : lo + width ≤ lo' ∨ lo' + width' ≤ lo) (n v u : Nat)
include hapart

theorem bitsGet_bitsSet_apart : bitsGet lo' width' (bitsSet lo width n v) = bitsGet lo' width' n := by
  apply Nat.eq_of_testBit_eq
  intro i
  rw [testBit_bitsGet, testBit_bitsGet, testBit_bitsSet]
  by_cases h : i < width'
  · rw [if_neg (by omega)]
  · simp [h]

theorem bitsSet_comm :
    bitsSet lo' width' (bitsSet lo width n v) u = bitsSet lo width (bitsSet lo' width' n u) v := by
  apply Nat.eq_of_testBit_eq
  intro i
  simp only [testBit_bitsSet]
  by_cases h : lo ≤ i ∧ i < lo + width
  · rw [if_neg (by omega), if_pos h, if_pos h]
  · rw [if_neg h, if_neg h]

end

/-! ### The fields of an image -/

/-- No bit belongs to two fields (rule R80). -/
theorem fieldPlaces_apart {f g : CfgField} (h : g ≠ f) :
    fieldLo f + fieldWidth f ≤ fieldLo g ∨ fieldLo g + fieldWidth g ≤ fieldLo f := by
  revert h
  cases f <;> cases g <;> decide

/-- The six unassigned bits belong to no field (rule R80). -/
theorem unassigned_outside_fields (f : CfgField) (i : Nat) (h : (0x600F#16).getLsbD i = true) :
    ¬ (fieldLo f ≤ i ∧ i < fieldLo f + fieldWidth f) := by
  have hall : ∀ j < 16, (0x600F#16).getLsbD j = true → ¬ (fieldLo f ≤ j ∧ j < fieldLo f + fieldWidth f) := by
    cases f <;> decide
  exact hall i (BitVec.lt_of_getLsbD h) h

/-- A bit of an image with a field set. -/
theorem getLsbD_fieldSet (img : Pair) (f : CfgField) (v : BitVec 32) (i : Nat) : (fieldSet img f v).getLsbD i =
    if fieldLo f ≤ i ∧ i < fieldLo f + fieldWidth f then v.getLsbD (i - fieldLo f) else img.getLsbD i := by
  simp only [← BitVec.testBit_toNat, toNat_fieldSet, testBit_bitsSet]

theorem fieldGet_fieldSet_same (img : Pair) (f : CfgField) (v : BitVec 32) :
    fieldGet (fieldSet img f v) f = v.setWidth 8 &&& fieldWmask f := by
  have hdvd : 2 ^ fieldWidth f ∣ 2 ^ 8 := pow_dvd_pow 2 (by cases f <;> decide)
  apply BitVec.eq_of_toNat_eq
  rw [toNat_fieldGet, toNat_fieldSet, bitsGet_bitsSet_same, toNat_and_wmask, BitVec.toNat_setWidth,
    Nat.mod_mod_of_dvd _ hdvd]

theorem fieldGet_fieldSet_other (img : Pair) {f g : CfgField} (h : g ≠ f) (v : BitVec 32) :
    fieldGet (fieldSet img f v) g = fieldGet img g := by
  apply BitVec.eq_of_toNat_eq
  rw [toNat_fieldGet, toNat_fieldSet, bitsGet_bitsSet_apart (fieldPlaces_apart h), toNat_fieldGet]

theorem fieldSet_keeps_unassigned (img : Pair) (f : CfgField) (v : BitVec 32) :
    fieldSet img f v &&& 0x600F#16 = img &&& 0x600F#16 := by
  apply BitVec.eq_of_getLsbD_eq
  intro i _
  rw [BitVec.getLsbD_and, BitVec.getLsbD_and, getLsbD_fieldSet]
  cases hm : (0x600F#16).getLsbD i with
  | false => simp
  | true => rw [if_neg (unassigned_outside_fields f i hm)]

theorem fieldSet_fieldSet_same (img : Pair) (f : CfgField) (u v : BitVec 32) :
    fieldSet (fieldSet img f u) f v = fieldSet img f v := by
  apply BitVec.eq_of_toNat_eq
  simp only [toNat_fieldSet, bitsSet_bitsSet_same]

theorem fieldSet_fieldGet_self (img : Pair) (f : CfgField) : fieldSet img f ((fieldGet img f).setWidth 32) = img := by
  apply BitVec.eq_of_toNat_eq
  rw [toNat_fieldSet, BitVec.toNat_setWidth_of_le (by decide), toNat_fieldGet, bitsSet_bitsGet_self]

theorem fieldSet_comm (img : Pair) {f g : CfgField} (h : g ≠ f) (v u : BitVec 32) :
    fieldSet (fieldSet img f v) g u = fieldSet (fieldSet img g u) f v := by
  apply BitVec.eq_of_toNat_eq
  simp only [toNat_fieldSet]
  exact bitsSet_comm (fieldPlaces_apart h) _ _ _

/-- Settles O18: fields are disjoint places, a set replaces the bits of its place, and the unassigned bits are in none. -/
theorem fieldLaws : Obligations.FieldLaws :=
  fun img f v u => ⟨fieldGet_fieldSet_same img f v, fun _ hg => fieldGet_fieldSet_other img hg v,
    fieldSet_keeps_unassigned img f v, fieldSet_fieldSet_same img f u v, fieldSet_fieldGet_self img f,
    fun _ hg => fieldSet_comm img hg v u⟩

end Sys2Proof.Machine
end

section
/-! PROOF. A command after another on the simple-storage sensor (decision D28): what is written is what the next command reads. -/

namespace Sys2Proof.Machine

/-! ### A sensor that nothing outside changes -/

section
variable {k : Nat} {s : State}

theorem Quiet.mono {n : Nat} (h : Quiet n s) (hk : k ≤ n) : Quiet k s := fun j hj => h j (hj.trans_le hk)

theorem Quiet.answered (h : Quiet k s) : Answered k s := fun j hj => by rw [h j hj]; rfl

theorem Quiet.memBefore_eq (h : Quiet (k + 1) s) : memBefore s = s.mem := by
  rw [memBefore, h 0 (Nat.succ_pos k)]
  rfl

theorem Quiet.afterCfgRead (h : Quiet (k + 1) s) : Quiet k (afterCfgRead s) := fun j hj => by
  rw [afterCfgRead_turnAt, h (j + 1) (Nat.succ_lt_succ hj)]

theorem Quiet.seenNow_eq (h : Quiet (k + 1) s) (r : SensorReg) : seenNow s r = readPair s.mem s.devAddr r := by
  rw [seenNow, h.memBefore_eq]

theorem Quiet.memAtSecond_eq (h : Quiet (k + 2) s) : memAtSecond s = s.mem := by
  have hmem : (Machine.afterCfgRead s).mem = memBefore s := by simp [Machine.afterCfgRead, storeReq, memBefore]
  rw [memAtSecond, h.afterCfgRead.memBefore_eq, hmem, h.memBefore_eq]

theorem Quiet.seenSecond_eq (h : Quiet (k + 2) s) (r : SensorReg) : seenSecond s r = readPair s.mem s.devAddr r := by
  rw [seenSecond, h.memAtSecond_eq]

end

/-! ### What a completed write leaves for the next command -/

/-- Register `r` holds `n`, the other registers what they held, and the next `k` transactions are quiet as before. -/
structure Stored (k : Nat) (s t : State) (r : SensorReg) (n : Nat) : Prop where
  quiet   : Quiet k t
  devAddr : t.devAddr = s.devAddr
  written : (readPair t.mem s.devAddr r).toNat = n
  kept    : ∀ r', r' ≠ r → readPair t.mem s.devAddr r' = readPair s.mem s.devAddr r'

section
variable {s t : State} {r : SensorReg} {n : Nat}

/-- The two bytes of another register read as the outside left them. -/
theorem ReadWriteFrame.readPair_other (h : ReadWriteFrame s t r n) {r' : SensorReg} (hr : r' ≠ r) :
    readPair t.mem s.devAddr r' = readPair (memAtSecond s) s.devAddr r' := by
  obtain ⟨-, hbyte⟩ := h
  have hapart := cellKey_apart s.devAddr r' r hr
  have hsame : ∀ a, a ≠ cellKey s.devAddr r → a ≠ cellKey s.devAddr r + 1 → byteAt t.mem a = byteAt (memAtSecond s) a := by
    intro a h0 h1
    have ha := hbyte a
    rw [if_neg h0, if_neg h1] at ha
    exact BitVec.eq_of_toNat_eq ha
  rw [readPair, readPair, hsame _ (by omega) (by omega), hsame _ (by omega) (by omega)]

theorem ReadWriteFrame.turnAt (h : ReadWriteFrame s t r n) (j : Nat) : t.turnAt j = s.turnAt (j + 2) := by
  obtain ⟨hframe, -⟩ := h
  rw [hframe]
  simp [State.turnAt, Nat.add_comm, Nat.add_left_comm]

theorem ReadWriteFrame.stored {k : Nat} (h : ReadWriteFrame s t r n) (hq : Quiet (k + 2) s) : Stored k s t r n where
  quiet j hj := by rw [h.turnAt, hq (j + 2) (Nat.add_lt_add_right hj 2)]
  devAddr := by rw [h.1]
  written := h.readPair_eq
  kept _ hr := by rw [h.readPair_other hr, hq.memAtSecond_eq]

end

/-! ### The sequenced commands on a quiet sensor -/

section
variable {i : Instr} {r : SensorReg} {c : Int} {f : CfgField} {v : BitVec 32} {k : Nat} {s : State}

theorem readCount_quiet (h : shapeOf i = .readCount r) (hq : Quiet 2 s) :
    ∃ t, exec i s = .next t ∧ CountResponse t (readPair s.mem s.devAddr r).toNat
      (bitsGet 4 1 (readPair s.mem s.devAddr .configuration).toNat == 1) := by
  obtain ⟨t, ht, -, hrsp⟩ := readCount_completes s h hq.answered
  rw [hq.seenSecond_eq, hq.seenNow_eq] at hrsp
  exact ⟨t, ht, hrsp⟩

theorem getField_quiet (h : shapeOf i = .getField f) (hq : Quiet 1 s) :
    ∃ t, exec i s = .next t ∧ Response t 0 1 0
      (bitsGet (fieldLo f) (fieldWidth f) (readPair s.mem s.devAddr .configuration).toNat) := by
  obtain ⟨t, ht, -, hrsp⟩ := getField_completes s h hq.answered
  rw [hq.seenNow_eq] at hrsp
  exact ⟨t, ht, hrsp⟩

theorem writeCount_stores (h : shapeOf i = .writeCount r c) (hw : Memory.wf s.mem = true) (hq : Quiet (k + 2) s) :
    ∃ t, exec i s = .next t ∧
      Stored k s t r (pairNat (rawOf c) (bitsGet 4 1 (seenNow s .configuration).toNat == 1)) := by
  obtain ⟨t, ht, -, hframe⟩ := writeCount_completes s h hw (hq.mono (Nat.le_add_left 2 k)).answered
  exact ⟨t, ht, hframe.stored hq⟩

theorem setField_stores (h : shapeOf i = .setField f v) (hw : Memory.wf s.mem = true) (hq : Quiet (k + 2) s) :
    ∃ t, exec i s = .next t ∧ Stored k s t .configuration
      (bitsSet (fieldLo f) (fieldWidth f) (seenNow s .configuration).toNat v.toNat) := by
  obtain ⟨t, ht, -, hframe⟩ := setField_completes s h hw (hq.mono (Nat.le_add_left 2 k)).answered
  exact ⟨t, ht, hframe.stored hq⟩

end

/-! ### A threshold written and read back -/

/-- The response of a packed value that the mode can hold is that value (rule R77). -/
theorem response_of_countResponse_pairNat {t : State} {n : Int} {em : Bool} (hlo : -countBound em ≤ n)
    (hhi : n < countBound em) (h : CountResponse t (pairNat n em) em) : Response t 0 1 0 (twosOf 32 n) := by
  rwa [CountResponse, if_neg (pairNat_ne_sentinel n em), countOf_pairNat hlo hhi] at h

/-- A write of a threshold followed by a read of it: the write leaves the Configuration register, so both are in one mode. -/
theorem threshold_reads_back {wr rd : Instr} {r : SensorReg} {c : Int} {s : State} (hwr : shapeOf wr = .writeCount r c)
    (hrd : shapeOf rd = .readCount r) (hw : Memory.wf s.mem = true) (hq : Quiet 4 s)
    (hfits : emOf (seenNow s .configuration) = true ∨ rawOf c ≤ 2047) :
    ∃ t u, exec wr s = .next t ∧ exec rd t = .next u ∧ Response u 0 1 0 (twosOf 32 (rawOf c)) := by
  obtain ⟨t, ht, hst⟩ := writeCount_stores (k := 2) hwr hw hq
  obtain ⟨u, hu, hrsp⟩ := readCount_quiet hrd hst.quiet
  have hcfg : readPair t.mem t.devAddr .configuration = seenNow s .configuration := by
    rw [hst.devAddr, hst.kept _ (readCount_reg rd r hrd).symm, hq.seenNow_eq]
  rw [hcfg, hst.devAddr, hst.written, ← emOf_eq] at hrsp
  obtain ⟨hlo, hhi⟩ := rawOf_in_mode hfits
  exact ⟨t, u, ht, hu, response_of_countResponse_pairNat hlo hhi hrsp⟩

/-- Settles O27: the threshold holds the packed value, and the mode it is read in is the one it was written in. -/
theorem thresholdReadsBack : Obligations.ThresholdReadsBack :=
  fun _ _ hw hq hfits => ⟨threshold_reads_back rfl rfl hw hq hfits, threshold_reads_back rfl rfl hw hq hfits⟩

/-! ### A field set and the fields got -/

/-- A place got after a field's place was set: the value's low bits in the same field, and in another what was there. -/
theorem bitsGet_bitsSet_field (g f : CfgField) (n v : Nat) :
    bitsGet (fieldLo g) (fieldWidth g) (bitsSet (fieldLo f) (fieldWidth f) n v) =
      if g = f then v % 2 ^ fieldWidth g else bitsGet (fieldLo g) (fieldWidth g) n := by
  split
  next h => subst h; exact bitsGet_bitsSet_same _ _ _ _
  next h => exact bitsGet_bitsSet_apart (fieldPlaces_apart h) _ _

theorem field_reads_back {set get : Instr} {f g : CfgField} {v : BitVec 32} {s : State} (hset : shapeOf set = .setField f v)
    (hget : shapeOf get = .getField g) (hw : Memory.wf s.mem = true) (hq : Quiet 3 s) :
    ∃ t u, exec set s = .next t ∧ exec get t = .next u ∧ Response u 0 1 0 (if g = f then v.toNat % 2 ^ fieldWidth g
      else bitsGet (fieldLo g) (fieldWidth g) (seenNow s .configuration).toNat) := by
  obtain ⟨t, ht, hst⟩ := setField_stores (k := 1) hset hw hq
  obtain ⟨u, hu, hrsp⟩ := getField_quiet hget hst.quiet
  rw [hst.devAddr, hst.written, bitsGet_bitsSet_field] at hrsp
  exact ⟨t, u, ht, hu, hrsp⟩

/-- Settles O28: a getter reads the image the setter wrote; OS.TRIG sets its one bit to 1. -/
theorem fieldReadsBack : Obligations.FieldReadsBack := by
  intro h hh s hw hq
  obtain ⟨-, -, hget⟩ := sensorGetter_row hh
  refine ⟨fun g hg v => ?_, ?_⟩
  · obtain ⟨-, -, hset⟩ := sensorSetter_row hg v
    exact field_reads_back hset hget hw hq
  · obtain ⟨t, u, ht, hu, hrsp⟩ := field_reads_back (set := .osTrig) rfl hget hw hq
    refine ⟨t, u, ht, hu, ?_⟩
    split at hrsp
    next hos => rw [hos] at hrsp; rwa [if_pos hos]
    next hos => rwa [if_neg hos]

/-! ### A change of mode -/

/-- A threshold read after a change of mode: the old pattern in the new mode (rule R176). -/
theorem readCount_after_setMode {i : Instr} {r : SensorReg} {v m : Nat} {s t : State} (h : shapeOf i = .readCount r)
    (hst : Stored 2 s t .configuration (bitsSet (fieldLo .em) (fieldWidth .em) m v)) :
    ∃ u, exec i t = .next u ∧ CountResponse u (readPair s.mem s.devAddr r).toNat (v % 2 == 1) := by
  obtain ⟨u, hu, hrsp⟩ := readCount_quiet h hst.quiet
  have hmode : bitsGet 4 1 (bitsSet (fieldLo .em) (fieldWidth .em) m v) = v % 2 := bitsGet_bitsSet_same 4 1 m v
  rw [hst.devAddr, hst.kept r (readCount_reg i r h), hst.written, hmode] at hrsp
  exact ⟨u, hu, hrsp⟩

/-- Settles O30: the setter writes the Configuration register only, and each read takes its mode from there. -/
theorem modeChangeKeepsThresholds : Obligations.ModeChangeKeepsThresholds := by
  intro v s hw hq
  obtain ⟨t, ht, hst⟩ := setField_stores (i := .csetEm v) (k := 2) rfl hw hq
  exact ⟨t, ht, hst.kept, readCount_after_setMode rfl hst, readCount_after_setMode rfl hst⟩

end Sys2Proof.Machine
end

section
/-! PROOF. The transport column of the operation-code map (rules R27, R43): the requests of every command, in order. -/

namespace Sys2Proof.Machine

/-- The transactions of a shape: true for a write, and the register. -/
def transportOf : Shape → List (Bool × SensorReg)
  | .pure _ => []
  | .readCount r => [(false, .configuration), (false, r)]
  | .writeCount r _ => [(false, .configuration), (true, r)]
  | .getField _ => [(false, .configuration)]
  | .setField _ _ => [(false, .configuration), (true, .configuration)]

theorem exists_row_transport (i : Instr) :
    ∃ r, opTable.find? (fun x => x.op == i.opCode) = some r ∧ r.transport = transportOf (shapeOf i) := by
  cases i <;> exact ⟨_, rfl, rfl⟩

/-- A row with the code of a command lists the transactions of its shape. -/
theorem transport_of_row {r : OpRow} (hr : r ∈ opTable) {i : Instr} (h : i.opCode = r.op) :
    r.transport = transportOf (shapeOf i) := by
  obtain ⟨r', hf, ht⟩ := exists_row_transport i
  rw [h, find?_row_of_mem r hr] at hf
  cases hf
  exact ht

/-- Between `s` and `t` a response has been made, and requests of the listed kinds have been added to the record, on the block's own
device. -/
def RespondsAfter (l : List (Bool × SensorReg)) (s t : State) : Prop :=
  t.rspPending = true ∧ ∃ b : List Txn, t.bus = s.bus ++ b ∧ (∀ x ∈ b, x.dev = s.devAddr) ∧
    b.map (fun x => (reqIsWrite x.req, reqReg x.req)) = l

theorem respondsAfter_first (rsp : Rsp) (s : State) :
    RespondsAfter [(false, .configuration)] s (respond rsp (afterCfgRead s)) :=
  ⟨rfl, [⟨s.devAddr, .read .configuration⟩], by simp [afterCfgRead], by simp, rfl⟩

theorem respondsAfter_second (rsp : Rsp) (q : Req) (s : State) :
    RespondsAfter [(false, .configuration), (reqIsWrite q, reqReg q)] s
      (respond rsp (completeReq q (beginTurn (afterCfgRead s)))) :=
  ⟨rfl, [⟨s.devAddr, .read .configuration⟩, ⟨s.devAddr, q⟩], by simp [afterCfgRead], by simp, rfl⟩

/-- A shape whose transactions succeed makes those listed for it, then its response. -/
theorem runShape_respondsAfter (x : Shape) (s : State) (h : Answered 2 s) : RespondsAfter (transportOf x) s (runShape x s) := by
  cases x with
  | pure r => exact ⟨rfl, [], (List.append_nil _).symm, by simp, rfl⟩
  | readCount r => rw [runShape, readAndDecode_ok r s h]; exact respondsAfter_second _ (.read r) s
  | writeCount r c => rw [runShape, encodeAndWrite_ok r c s h]; exact respondsAfter_second _ (.write r _) s
  | getField f =>
    rw [runShape, readField_ok f s fun j hj => h j (by omega)]
    exact respondsAfter_first _ s
  | setField f v => rw [runShape, modifyField_ok f v s h]; exact respondsAfter_second _ (.write .configuration _) s

/-- Settles O26: the row's code decodes to a command whose shape makes the row's transactions. -/
theorem transactionsInOrder : Obligations.TransactionsInOrder := by
  intro r hr arg s h
  obtain ⟨i, hi⟩ := exists_decodeOp_of_row hr arg
  obtain ⟨hp, hbus⟩ := runShape_respondsAfter (shapeOf i) s h
  rw [transport_of_row hr (decodeOp_eq_ok hi).1]
  exact ⟨i, _, by rw [decode_append, hi], exec_eq_runShape i s, hp, hbus⟩

end Sys2Proof.Machine
end
